-- ==== Sys2Proof/Word.lean ====
section
/-! DEFINITION. The one word type the unit moves: a byte (spec 00_scope.md R9, 20_memory.md R42, R45). -/

namespace Sys2Proof

/-- A byte is 8 bits, bit 0 the least significant (R9). Register contents, chip register addresses and
bus data are bytes (R40, R73). -/
abbrev Byte := BitVec 8

end Sys2Proof
end

