-- ==== Sys2Proof/Syntax.lean ====
section
/-! DEFINITION. What the host can say to the unit: the TimeField tags (R63), the four commands of the opcode
table (R62, spec/opcode_table.json), the words a command is presented in (R60), and the causes for which a
command is turned down at acceptance (R201). -/

namespace Sys2Proof

/-- "an enumerated tag over {Year, Month, Day, Weekday, Hour, Minute, Second}" (R13, R63). Tag 7 names no
field and has no constructor (R63, R120). -/
inductive TimeField where
  | year
  | month
  | day
  | weekday
  | hour
  | minute
  | second
  deriving DecidableEq, Repr

/-- The four commands, one constructor per row of the opcode table (R62, R67). The operand of SET_FIELD is the
signed integer that `OPND` spells (R64, `setField(field: TimeField, value: integer)` of R62); the other commands
ignore `OPND`. -/
inductive Instr where
  | setField (f : TimeField) (v : Int)
  | getField (f : TimeField)
  | getFieldRaw (f : TimeField)
  | restartIntegrity
  deriving DecidableEq, Repr

/-- A command as it stands on the command port: the header `CMD[7:0]` and the operand `OPND[VALUE_BITS-1:0]`,
presented together (R60). The width of the operand is a parameter (R8), so the word is a number, of which the port
carries the low VALUE_BITS bits (Decode.lean, `operandBits`; log entry 4). -/
structure Command where
  cmd : Byte
  opnd : Nat
  deriving DecidableEq, Repr

/-- The fault causes of R201 other than NONE. -/
inductive FaultCause where
  | reservedBits
  | illegalField
  | negativeValue
  deriving DecidableEq, Repr

end Sys2Proof
end

