-- ==== Sys2Proof/Config.lean ====
section
/-! DEFINITION. What is fixed for the life of a machine, and what the spec leaves free.
The named parameters of 00_scope.md R8 are a record, `Params`, which State carries and no step writes, so that
a statement about every state is a statement about every parameter value (R8: "The model takes each one as an
argument"; log entry 4). The free values are opaque (log entry 5). -/

namespace Sys2Proof

/-- The field descriptor {ADDR, MASK, MIN, MAX, MOD, OFFSET} (R13, R120). -/
structure FieldDesc where
  addr : Byte
  mask : Byte
  min : Nat
  max : Nat
  mod : Nat
  offset : Nat
  deriving DecidableEq, Repr

/-- `P_FIELD_TABLE`: one descriptor for each of the seven fields, and none for tag 7 (R27, R120, R121). -/
structure FieldTable where
  year : FieldDesc
  month : FieldDesc
  day : FieldDesc
  weekday : FieldDesc
  hour : FieldDesc
  minute : FieldDesc
  second : FieldDesc
  deriving DecidableEq, Repr

/-- `P_ENV`: which environment model of the chip answers the bus (R8, R33, R34). -/
inductive EnvKind where
  | free
  | passive
  deriving DecidableEq, Repr

/-- The parameters of R8, each an argument of the model. `P_YEAR_OFFSET` is the OFFSET of the table's Year row (R127). -/
structure Params where
  /-- `P_DEV_ADDR`, 7 bits, passed to every bus primitive (R40). -/
  devAddr : BitVec 7
  /-- `P_FIELD_TABLE` (R121). -/
  table : FieldTable
  /-- `P_INTEGRITY_BIT`, a bit number of the Second register (R31). -/
  integrityBit : Fin 8
  /-- `P_ENV` (R33, R34). -/
  env : EnvKind
  /-- `VALUE_BITS`, the width of OPND (R8, R60). -/
  valueBits : Nat
  /-- `RESULT_BITS`, the width of the response data port (R8, R24, R70). -/
  resultBits : Nat
  deriving DecidableEq, Repr

namespace Config

/-- The byte each chip register holds at power-on: a free draw per register (R233, U6). No body: nothing can
be proved of its value. -/
opaque powerOnByte : Byte → Byte

/-- The byte the FREE chip returns to the n-th step's BusRead where no input names one (R34). -/
opaque freeByte : Nat → Byte

/-- `flagDraw` of the n-th step's BusWrite where no input names it (R33, U7). -/
opaque freeFlag : Nat → Bool

/-- Where the chip's pointer stands after the n-th step's BusRead or BusWrite where no input names it
(R32, U10). -/
opaque freePtr : Nat → Byte

/-- The register changes the FREE chip makes by itself around the n-th step's transaction where no input names
them (R30, R34, U15). -/
opaque freeDrift : Nat → List (Byte × Byte)

end Config

end Sys2Proof
end

