-- ==== Sys2Proof/Machine/Codec.lean ====
section
/-! DEFINITION. The BCD codec (40_bcd_codec.md R100 to R105): two combinational functions, no state. -/

namespace Sys2Proof.Machine

/-- `b[7:4]`, the tens nibble (R9, R71): `raw >> 4`. -/
def highNibble (b : Byte) : Nat := (b >>> 4).toNat

/-- `b[3:0]`, the units nibble (R9, R71): `raw & 0x0F`. -/
def lowNibble (b : Byte) : Nat := (b &&& 0x0F#8).toNat

/-- ENCODE_BCD (R101): `(w div 10) * 16 + (w mod 10)` on 0..99. Outside that domain the encoder refuses, it
gives no value (R102, D21). -/
def encodeBCD (w : Int) : Option Byte :=
  if 0 ≤ w ∧ w ≤ 99 then some (BitVec.ofNat 8 (w.toNat / 10 * 16 + w.toNat % 10)) else none

/-- DECODE_BCD (R104): `raw[7:4] * 10 + raw[3:0]` on any byte, with no validity check on the nibbles. -/
def decodeBCD (raw : Byte) : Nat := highNibble raw * 10 + lowNibble raw

/-- A valid BCD byte: both nibbles at most 9 (R13). -/
def validBCD (b : Byte) : Bool := decide (highNibble b ≤ 9) && decide (lowNibble b ≤ 9)

end Sys2Proof.Machine
end

