-- ==== Sys2Proof/Machine/FieldTable.lean ====
section
/-! DEFINITION. The field descriptor ROM: the tag numbering (R63), the lookup (R120), the default contents
(R121) and the checks WF1 to WF6 a table must pass (R122). -/

namespace Sys2Proof

/-- The tag of a field, in the source's order (R63). -/
def TimeField.tag : TimeField → BitVec 3
  | .year => 0#3
  | .month => 1#3
  | .day => 2#3
  | .weekday => 3#3
  | .hour => 4#3
  | .minute => 5#3
  | .second => 6#3

/-- The field a tag names; tag 7 names none (R63). -/
def TimeField.ofTag (t : BitVec 3) : Option TimeField :=
  if t = 0#3 then some .year
  else if t = 1#3 then some .month
  else if t = 2#3 then some .day
  else if t = 3#3 then some .weekday
  else if t = 4#3 then some .hour
  else if t = 5#3 then some .minute
  else if t = 6#3 then some .second
  else none

/-- The seven fields, in tag order. -/
def TimeField.all : List TimeField :=
  [.year, .month, .day, .weekday, .hour, .minute, .second]

/-- `T[f]` (R12, R120). -/
def FieldTable.row (t : FieldTable) : TimeField → FieldDesc
  | .year => t.year
  | .month => t.month
  | .day => t.day
  | .weekday => t.weekday
  | .hour => t.hour
  | .minute => t.minute
  | .second => t.second

/-- FIELD_ROM alone, indexed by the tag's bits: tag 7 has no row and the ROM refuses it (R120). -/
def FieldTable.lookup (t : FieldTable) (tag : BitVec 3) : Option FieldDesc :=
  (TimeField.ofTag tag).map t.row

namespace Machine

/-- The default `P_FIELD_TABLE`, cell by cell from R121; its GK cells are the PCF8563's (log entry 9). -/
def defaultTable : FieldTable where
  year := ⟨0x08#8, 0xFF#8, 0, 99, 100, 2000⟩
  month := ⟨0x07#8, 0x1F#8, 1, 12, 13, 0⟩
  day := ⟨0x05#8, 0x3F#8, 1, 31, 32, 0⟩
  weekday := ⟨0x06#8, 0x07#8, 0, 6, 7, 0⟩
  hour := ⟨0x04#8, 0x3F#8, 0, 23, 24, 0⟩
  minute := ⟨0x03#8, 0x7F#8, 0, 59, 60, 0⟩
  second := ⟨0x02#8, 0x7F#8, 0, 59, 60, 0⟩

/-- The defaults of R8: device address 0x51, the table of R121, integrity bit 7, the FREE environment (log
entry 8), an operand port of 32 bits and a response port of 16. -/
def defaultParams : Params where
  devAddr := 0x51#7
  table := defaultTable
  integrityBit := 7
  env := .free
  valueBits := 32
  resultBits := 16

/-- `P_YEAR_OFFSET` (R8): the OFFSET of the Year row (R127). -/
def yearOffset (p : Params) : Nat := p.table.year.offset

/-- The address and descriptor of the Second register (the `S` of 42_commands.md). -/
def secondAddr (p : Params) : Byte := p.table.second.addr

/-- WF1 (R122): `0 <= MIN <= MAX`. -/
def checkRange (d : FieldDesc) : Bool := decide (d.min ≤ d.max)

/-- WF2 (R122): `1 <= MOD <= 100`. -/
def checkModulus (d : FieldDesc) : Bool := decide (1 ≤ d.mod) && decide (d.mod ≤ 100)

/-- WF3 (R122): every byte a field write can carry lies inside the field's mask. -/
def checkWriteBytes (d : FieldDesc) : Bool :=
  (List.range d.mod).all fun w =>
    match encodeBCD w with
    | some b => b &&& ~~~d.mask == 0#8
    | none => false

/-- WF6 (R122): `MAX + OFFSET < 2^RESULT_BITS`, for `n = RESULT_BITS`. -/
def checkResult (n : Nat) (d : FieldDesc) : Bool := decide (d.max + d.offset < 2 ^ n)

/-- WF4 (R122): bit `P_INTEGRITY_BIT` of the Second register's mask is 0. -/
def checkIntegrityMask (p : Params) : Bool := !(p.table.second.mask.getLsbD p.integrityBit.val)

/-- WF5 (R122): the seven addresses are pairwise distinct. -/
def checkAddresses (t : FieldTable) : Bool :=
  decide ((TimeField.all.map fun f => (t.row f).addr).Nodup)

/-- WF1, WF2, WF3 and WF6 of one row, for `n = RESULT_BITS`. -/
def checkRow (n : Nat) (d : FieldDesc) : Bool :=
  checkRange d && checkModulus d && checkWriteBytes d && checkResult n d

end Machine

end Sys2Proof
end

