-- ==== Sys2Proof/WellFormed.lean ====
section
/-! DEFINITION. Which commands and which parameters are well formed. -/

namespace Sys2Proof

/-- A command the unit runs, with a port of `n = VALUE_BITS` bits: the operand of SET_FIELD is not negative (R64,
R200) and the port can carry it (`0 <= c_value < 2^(VALUE_BITS-1)`, R21). Every other constraint of 30_encoding.md
(reserved bits, tag 7, the field of RESTART_INTEGRITY) is built into `Instr`. -/
def Instr.wf (n : Nat) : Instr → Bool
  | .setField _ v => decide (0 ≤ v) && decide (v < (2 ^ (n - 1) : Nat))
  | .getField _ => true
  | .getFieldRaw _ => true
  | .restartIntegrity => true

/-- "A model accepts a table only if every check below passes" (R122 WF1 to WF6). -/
def Params.tableOk (p : Params) : Bool :=
  (TimeField.all.all fun f => Machine.checkRow p.resultBits (p.table.row f)) &&
    Machine.checkIntegrityMask p && Machine.checkAddresses p.table

/-- The ports are wide enough for what the spec puts on them: OPND has a sign bit (R64), and `rsp_data` holds the byte
of GET_FIELD_RAW (R24 "holds every result", R154; DEDUCED, log entry 4). -/
def Params.portsOk (p : Params) : Bool := decide (1 ≤ p.valueBits) && decide (8 ≤ p.resultBits)

/-- The parameter values the model runs with. -/
def Params.wf (p : Params) : Bool := p.tableOk && p.portsOk

end Sys2Proof
end

