-- ==== Sys2Proof/Decode.lean ====
section
/-! DEFINITION. The decoder of 30_encoding.md R65, total on every command word and rejecting by the cause of
R201; after it the encoder, written from the encoding column of R67; and the opcode table's numbering of a
command's bits. -/

namespace Sys2Proof

/-- `CMD[7:5]`, reserved (R61). -/
def Command.rsv (c : Command) : BitVec 3 := c.cmd.extractLsb' 5 3

/-- `CMD[4:3]`, the operation (R62). -/
def Command.op (c : Command) : BitVec 2 := c.cmd.extractLsb' 3 2

/-- `CMD[2:0]`, the TimeField tag (R63). -/
def Command.tag (c : Command) : BitVec 3 := c.cmd.extractLsb' 0 3

/-- `OPND[VALUE_BITS-1:0]`: what a port of `n = VALUE_BITS` bits carries of a word (R60). -/
def operandBits (n opnd : Nat) : Nat := opnd % 2 ^ n

/-- The SET_FIELD operand of R64: `OPND - 2^VALUE_BITS` if its top bit is 1, and `OPND` otherwise. -/
def operandValue (n opnd : Nat) : Int :=
  if 2 ^ (n - 1) ≤ operandBits n opnd then (operandBits n opnd : Int) - (2 ^ n : Nat) else operandBits n opnd

/-- The word that spells a signed integer on a port of `n = VALUE_BITS` bits, in two's complement (R64, R74). -/
def operandWord (n : Nat) (v : Int) : Nat := (v % (2 ^ n : Nat)).toNat

/-- `decode(CMD, OPND)` of R65 for a port of `n = VALUE_BITS` bits: the checks in the order that fixes the priority of
R202. -/
def decode (n : Nat) (c : Command) : Except FaultCause Instr :=
  if c.rsv ≠ 0b000#3 then .error .reservedBits
  else if c.op = 0b11#2 then
    if c.tag ≠ 0b000#3 then .error .reservedBits else .ok .restartIntegrity
  else
    match TimeField.ofTag c.tag with
    | none => .error .illegalField
    | some f =>
      if c.op = 0b00#2 then
        if operandValue n c.opnd < 0 then .error .negativeValue else .ok (.setField f (operandValue n c.opnd))
      else if c.op = 0b01#2 then .ok (.getField f)
      else .ok (.getFieldRaw f)

/-- The header `000`, op, tag (R60). -/
def headerOf (op : BitVec 2) (tag : BitVec 3) : Byte := 0b000#3 ++ op ++ tag

/-- The words of a command on a port of `n = VALUE_BITS` bits (R67, R74): `OPND = 0` for the commands that ignore
it. -/
def encode (n : Nat) : Instr → Command
  | .setField f v => ⟨headerOf 0b00#2 f.tag, operandWord n v⟩
  | .getField f => ⟨headerOf 0b01#2 f.tag, 0⟩
  | .getFieldRaw f => ⟨headerOf 0b10#2 f.tag, 0⟩
  | .restartIntegrity => ⟨headerOf 0b11#2 0b000#3, 0⟩

/-- A command's 40 bits as spec/opcode_table.json numbers them: bits 7..0 are CMD (the table's row), and OPND
counts on from bit 8 (DESIGN CHOICE, log entry 3: the port is parallel and has no byte order, R43).
Bits at and above `nbits` are 0. -/
def commandOfWord (nbits w : Nat) : Command :=
  ⟨BitVec.ofNat 8 (w % 2 ^ nbits), w % 2 ^ nbits / 256⟩

/-- What the decoder reads from a word numbered as the opcode table numbers it, on the default port (R8). -/
def decodeTableWord (nbits w : Nat) : Option Instr :=
  match decode Machine.defaultParams.valueBits (commandOfWord nbits w) with
  | .ok i => some i
  | .error _ => none

end Sys2Proof
end

