-- ==== Sys2Proof/Machine/Flags.lean ====
section
/-! DEFINITION. The one flag of the spec, the integrity flag of the chip's Second register (10_state.md R28, R31;
41_field_map.md R131). The unit has no flags of its own (R28). -/

namespace Sys2Proof.Machine

/-- The byte with only the bit `P_INTEGRITY_BIT` set. -/
def integrityMask (p : Params) : Byte := 1#8 <<< p.integrityBit.val

/-- The integrity flag as a byte of the Second register holds it (R31). -/
def integrityFlag (p : Params) (b : Byte) : Bool := b.getLsbD p.integrityBit.val

/-- CLEAR_INTEGRITY (R131): `b & ~(1 << P_INTEGRITY_BIT) & 0xFF`. -/
def clearIntegrity (p : Params) (b : Byte) : Byte := b &&& ~~~integrityMask p

/-- What `flagDraw` does to the Second register in the PASSIVE chip (R33): the integrity bit becomes 1. -/
def setIntegrity (p : Params) (b : Byte) : Byte := b ||| integrityMask p

end Sys2Proof.Machine
end

