-- ==== Sys2Proof/Machine/Operands.lean ====
section
/-! DEFINITION. What the datapath computes for a field: the write path functions (41_field_map.md R123, R124), the
read path functions (R125 to R127), and the two multiplexers that choose the address and data of every bus
transaction (R129, R130). All combinational. -/

namespace Sys2Proof.Machine

/-- NORMALISE (R123): `v mod MOD`, for `v >= 0` and `MOD >= 1` (R10). A negative value has no meaning here (U1). -/
def normalise (d : FieldDesc) (v : Int) : Option Nat :=
  if 0 ≤ v ∧ 1 ≤ d.mod then some (v.toNat % d.mod) else none

/-- WRITE_DATA (R124): the byte a field write carries, `encodeBCD(v mod MOD)`. -/
def writeData (d : FieldDesc) (v : Int) : Option Byte :=
  match normalise d v with
  | some w => encodeBCD w
  | none => none

/-- EXTRACT (R125): `raw & MASK`. -/
def extractField (d : FieldDesc) (raw : Byte) : Byte := raw &&& d.mask

/-- `clamp(x, lo, hi)` (R10). -/
def clamp (x lo hi : Nat) : Nat := if x < lo then lo else if hi < x then hi else x

/-- CLAMP (R126): the decoded value into `MIN .. MAX`. -/
def clampField (d : FieldDesc) (m : Byte) : Nat := clamp (decodeBCD m) d.min d.max

/-- OFFSET (R127): added after the clamp. -/
def addOffset (d : FieldDesc) (y : Nat) : Nat := y + d.offset

/-- The GET_FIELD result for the byte read (R70, R153): mask, decode, clamp, offset, in that order. -/
def fieldResult (d : FieldDesc) (raw : Byte) : Nat := addOffset d (clampField d (extractField d raw))

/-- `zext_n(v)` (R10, R12): a value on a port of `n` bits. Every result of an accepted table fits (WF6, log entry
4). -/
def zeroExtend (n v : Nat) : Nat := v % 2 ^ n

/-- The select line of the two multiplexers (R129, R130). -/
inductive MuxSelect where
  | field
  | integrity
  deriving DecidableEq, Repr

/-- READ_ADDR_MUX (R130): the address of a BusSetAddr. -/
def readAddrMux (p : Params) (sel : MuxSelect) (f : TimeField) : Byte :=
  match sel with
  | .field => (p.table.row f).addr
  | .integrity => secondAddr p

/-- WRITE_MUX (R129): the address and data of a BusWrite; `v` is the operand that `c_value` holds. None where the encoder refuses (R102). -/
def writeMux (p : Params) (sel : MuxSelect) (f : TimeField) (v : Int) (rd : Byte) : Option (Byte × Byte) :=
  match sel with
  | .field =>
    match writeData (p.table.row f) v with
    | some d => some ((p.table.row f).addr, d)
    | none => none
  | .integrity => some (secondAddr p, clearIntegrity p rd)

/-- How many transactions a command issues: the last column of the step table (R157). -/
def transactions : Instr → Nat
  | .setField _ _ => 4
  | .getField _ => 2
  | .getFieldRaw _ => 2
  | .restartIntegrity => 3

/-- The step of a command that is its BusRead (R157). -/
def readStep : Instr → Nat
  | .setField _ _ => 2
  | .getField _ => 1
  | .getFieldRaw _ => 1
  | .restartIntegrity => 1

/-- The register the BusRead of a command returns: the one its BusSetAddr chose (R130, R157). -/
def readTarget (p : Params) : Instr → Byte
  | .setField f _ => readAddrMux p .integrity f
  | .getField f => readAddrMux p .field f
  | .getFieldRaw f => readAddrMux p .field f
  | .restartIntegrity => secondAddr p

end Sys2Proof.Machine
end

