-- ==== Sys2Proof/Machine/State.lean ====
section
/-! DEFINITION. All the state the spec gives the machine, as plain data: the unit's registers (10_state.md R21),
the chip behind the bus (R30), the command port with the host's program (R60, R161), and the observation of a run
(R161); beside it the inputs of the other agents, the reasons a step can stop, and the state after reset. -/

namespace Sys2Proof.Machine

/-- `phase` (R21, R22). -/
inductive Phase where
  | idle
  | busy
  | fault
  deriving DecidableEq, Repr

/-- The chip's registers, `CHIP[a]` (R30): (address, byte) pairs, addresses strictly rising and below 256. An
address that is not listed holds its power-on byte, which nothing determines (R233, U6). -/
abbrev Memory := List Host.Cell

/-- One transaction on the two-wire bus, as it reaches the device it names (R11, R41, R73). -/
inductive BusTxn where
  /-- `writeBytes(dev, [reg, data])`. -/
  | write (dev : BitVec 7) (reg data : Byte)
  /-- `writeRegisterAddress(dev, reg)`. -/
  | setAddr (dev : BitVec 7) (reg : Byte)
  /-- `readByte(dev)`, with the byte it returned. -/
  | read (dev : BitVec 7) (data : Byte)
  deriving DecidableEq, Repr

/-- What the environment may choose freely in one step. Every field is an input under no law: a statement about
every state is a statement about every choice. -/
structure Draw where
  /-- The byte a BusRead returns under FREE (R34). -/
  readByte : Byte
  /-- `flagDraw` of a BusWrite under PASSIVE (R33, U7). -/
  flagDraw : Bool
  /-- Where PTR stands after a BusRead or a BusWrite (R32, U10). -/
  ptrAfter : Byte
  /-- The register changes the chip makes by itself around a transaction, under FREE (R30, U15). -/
  drift : List (Byte × Byte)
  deriving DecidableEq, Repr

/-- One event of the machine (D1: "One model step is one bus transaction or one host event"). -/
inductive Event where
  /-- The unit moves: it accepts a presented command (R150), or its outstanding transaction completes and the
  step of the command is done (R22, R157). -/
  | advance
  /-- The host presents one more command, after those it already presents (R60, R161). -/
  | present (c : Command)
  /-- The host consumes the response (R24). -/
  | acknowledge
  /-- The host reads `rsp_data` (R24, U12). -/
  | readResponse
  /-- The outstanding transaction does not complete in this step (R243: a step waits for the bus). -/
  | stall
  /-- The outstanding transaction will never complete (R207, U8); `landed` says whether it has nevertheless reached
  the chip, which the spec leaves open (R45, R207, D14; DESIGN CHOICE of the form, log entry 10). -/
  | hang (landed : Bool)
  /-- Reset of the unit (R230); `landed` says whether the outstanding transaction had reached the chip (R232,
  U13). -/
  | reset (landed : Bool)
  deriving DecidableEq, Repr

/-- An event with the environment's choices for it. -/
structure Input where
  event : Event
  draw : Draw
  deriving DecidableEq, Repr

/-- The machine's state. The first block is the unit of R21, register by register. -/
structure State where
  /-- `phase` (R21). -/
  phase : Phase
  /-- `step`, 0..3 (R21, R22). -/
  seqStep : Nat
  /-- `c_op`, 2 bits (R21, R23). -/
  cOp : BitVec 2
  /-- `c_field`, 3 bits (R21, R23). -/
  cField : BitVec 3
  /-- `c_value`, the operand latched from OPND: "It holds the operand as a non-negative integer" (R21, R23, R150). -/
  cValue : Nat
  /-- `rd_latch`, 8 bits (R21, R25). What it and the command latches hold between commands is unspecified (DESIGN CHOICE,
  log entry 1). -/
  rdLatch : Byte
  /-- `rsp_valid` (R21, R24). -/
  rspValid : Bool
  /-- `rsp_data`, a number of RESULT_BITS bits (R21, R24). -/
  rspData : Nat
  /-- `fault_code`, 2 bits (R21, R26, R201). -/
  faultCode : BitVec 2
  /-- The parameters of R8, which no step writes (R27, R29; log entry 4). -/
  params : Params
  /-- `CHIP` (R30). -/
  chip : Memory
  /-- `PTR`, the chip's register-address pointer (R30, R32). -/
  ptr : Byte
  /-- The outstanding transaction is one that never completes (R207; DESIGN CHOICE of the form, log entry 10). -/
  busHung : Bool
  /-- The commands the host presents, in order; the first stands on the command port (R60, R161; log entry 11). -/
  commands : List Command
  /-- The events to come; when none is listed the unit and the host go on by themselves (log entry 6). -/
  inputs : List Input
  /-- The environment's choices for the step in progress: the MODEL's own field. -/
  draw : Draw
  /-- How many steps have been taken, the argument of the opaque free values: the MODEL's own field. -/
  drawCount : Nat
  /-- The bus transactions of the run, oldest first (R161; log entry 13). -/
  busLog : List BusTxn
  /-- The responses of the run, oldest first (R161). -/
  rspLog : List Nat
  /-- How many commands the unit has taken from the port in the run, accepted or turned down: the MODEL's own field,
  for "Every command has been accepted and has completed" (R161; log entry 13). -/
  taken : Nat
  /-- How many responses of the run the host has acknowledged: the MODEL's own field, for "its response has been
  acknowledged" (R161; log entry 13). -/
  acknowledged : Nat
  deriving DecidableEq, Repr

/-- A step that stops the machine with a fault. -/
inductive Fault where
  /-- Raised by the event `readResponse` while `rsp_valid = 0`: "`rsp_data` is not defined while `rsp_valid = 0`; a
  model that reads it then faults" (R24, U12). Safe: no value is given. -/
  | responseUndefined
  deriving DecidableEq, Repr

/-- A step the model gives no meaning. None of these is reached from a state that `Invariant` (Safety.lean) admits
(log entry 7). -/
inductive Refusal where
  /-- An arm of exec that has no meaning yet; no arm is one. Safe. -/
  | notModelled (mnemonic : String)
  /-- Raised by `step` when the parameters fail a check of R122: "A model accepts a table only if every check
  below passes". Safe. -/
  | tableIllFormed
  /-- Raised by `step` when a port is too narrow for what the spec puts on it: no sign bit in OPND, or no room for a
  byte in `rsp_data` (R64, R24, R154; log entry 4). Safe. -/
  | portsIllFormed
  /-- Raised by SET_FIELD with an operand of `2^(VALUE_BITS-1)` or more, which no word on the port spells: "`refuse`:
  not expressible on the port" (U17, R64). Safe. -/
  | operandNotExpressible
  /-- Raised by a command whose step number is beyond its row of the step table: "The table is complete" (R157).
  Safe. -/
  | noSuchStep
  /-- Raised by `step` when the unit is BUSY and its latches spell no command: the decoder admits none such (R65,
  R120). Safe. -/
  | latchesNoCommand
  /-- Raised by SET_FIELD when the encoder is given an input outside 0..99 (R102, D21), which WF2 rules out. Safe. -/
  | encoderDomain
  deriving DecidableEq, Repr

/-- No draw at all: what the draw field holds before the first step (DESIGN CHOICE, log entry 5). -/
def Draw.zero : Draw := ⟨0#8, false, 0#8, []⟩

/-- The machine at power-on, reset: `phase`, `step`, `rsp_valid` and `fault_code` as R230 says, the parameters at
the defaults of R8, the chip with nothing listed (R233), no command presented. The latches, `rsp_data` and `PTR` are
unspecified by the spec and hold 0 here (DESIGN CHOICE, log entry 1). -/
def State.reset : State where
  phase := .idle
  seqStep := 0
  cOp := 0#2
  cField := 0#3
  cValue := 0
  rdLatch := 0#8
  rspValid := false
  rspData := 0
  faultCode := 0#2
  params := defaultParams
  chip := []
  ptr := 0#8
  busHung := false
  commands := []
  inputs := []
  draw := Draw.zero
  drawCount := 0
  busLog := []
  rspLog := []
  taken := 0
  acknowledged := 0

end Sys2Proof.Machine
end

