-- ==== Sys2Proof/Machine/Ops.lean ====
section
/-! DEFINITION. The shared operations: the chip's registers, the three bus primitives (00_scope.md R11, 10_state.md
R32 to R34), fault entry (60_exceptions.md R203) with the reset that is the only way out of it (R204, R230),
acceptance (42_commands.md R150), the step advance (R22) and completion (R151). -/

namespace Sys2Proof.Machine

/-! ### The chip's registers -/

/-- The listed byte at an address, if one is listed. -/
def Memory.lookup : Memory → Nat → Option Byte
  | [], _ => none
  | (a, b) :: m, k => if k = a then some b else Memory.lookup m k

/-- Write one byte, keeping the addresses strictly rising. -/
def Memory.write : Memory → Nat → Byte → Memory
  | [], k, d => [(k, d)]
  | (a, b) :: m, k, d =>
    if k < a then (k, d) :: (a, b) :: m
    else if k = a then (k, d) :: m
    else (a, b) :: Memory.write m k d

/-- The canonical form: addresses strictly rising and inside the 8-bit register space (R40). An unlisted address
has no determined byte, so no entry can repeat it (log entry 2). -/
abbrev Memory.wf (m : Memory) : Prop :=
  (m.map Prod.fst).Pairwise (· < ·) ∧ ∀ c ∈ m, c.1 < 256

/-- What an unlisted address reads as, ONE definition: its free power-on byte (R233, U6). -/
def Memory.unlisted (a : Byte) : Byte := Config.powerOnByte a

/-- `CHIP[a]` (R30). -/
def Memory.readByte (m : Memory) (a : Byte) : Byte := (Memory.lookup m a.toNat).getD (Memory.unlisted a)

/-- `CHIP[a] <- d`. -/
def Memory.writeByte (m : Memory) (a d : Byte) : Memory := Memory.write m a.toNat d

/-- The chip changes the listed registers by itself, in order (R30). -/
def Memory.drift : List (Byte × Byte) → Memory → Memory
  | [], m => m
  | (a, d) :: rest, m => Memory.drift rest (Memory.writeByte m a d)

/-! ### The bus -/

/-- The register contents a transaction leaves, `m` being what its own effect leaves: under FREE the chip may change
any register between two transactions (R30; DESIGN CHOICE of the form, log entry 8), under PASSIVE nothing else
changes CHIP (R33). -/
def settleChip (s : State) (m : Memory) : Memory :=
  match s.params.env with
  | .free => Memory.drift s.draw.drift m
  | .passive => m

/-- PASSIVE's `flagDraw` (R33): a write to a register other than Second may set the integrity flag. -/
def flagAfterWrite (s : State) (a : Byte) (m : Memory) : Memory :=
  if s.params.env = .passive ∧ a ≠ secondAddr s.params ∧ s.draw.flagDraw = true then
    Memory.writeByte m (secondAddr s.params)
      (setIntegrity s.params (Memory.readByte m (secondAddr s.params)))
  else m

/-- `BusWrite(a, d)` (R11, R33): PTR is unspecified afterwards, so it takes the environment's choice (U10; log
entry 15). -/
def busWrite (a d : Byte) (s : State) : State :=
  { s with
    chip := settleChip s (flagAfterWrite s a (Memory.writeByte s.chip a d))
    ptr := s.draw.ptrAfter
    busLog := s.busLog ++ [.write s.params.devAddr a d] }

/-- `BusSetAddr(a)` (R11, R32). -/
def busSetAddr (a : Byte) (s : State) : State :=
  { s with
    chip := settleChip s s.chip
    ptr := a
    busLog := s.busLog ++ [.setAddr s.params.devAddr a] }

/-- The byte a BusRead returns now: `CHIP[PTR]` under PASSIVE (R32), any byte under FREE (R34). -/
def busReadData (s : State) : Byte :=
  match s.params.env with
  | .passive => Memory.readByte s.chip s.ptr
  | .free => s.draw.readByte

/-- `rd_latch <- BusRead()` (R11, R25, R32). -/
def busRead (s : State) : State :=
  { s with
    rdLatch := busReadData s
    chip := settleChip s s.chip
    ptr := s.draw.ptrAfter
    busLog := s.busLog ++ [.read s.params.devAddr (busReadData s)] }

/-- The bytes a transaction moves, in bus order (R42, R73): register address first, then data. -/
def BusTxn.bytes : BusTxn → List Byte
  | .write _ reg data => [reg, data]
  | .setAddr _ reg => [reg]
  | .read _ data => [data]

/-- The device a transaction addresses (R40). -/
def BusTxn.device : BusTxn → BitVec 7
  | .write dev _ _ => dev
  | .setAddr dev _ => dev
  | .read dev _ => dev

/-- The register address a transaction puts on the bus; a BusRead puts none (R73). -/
def BusTxn.register : BusTxn → Option Byte
  | .write _ reg _ => some reg
  | .setAddr _ reg => some reg
  | .read _ _ => none

/-! ### The sequencer -/

/-- `step <- step + 1` (R22). -/
def advanceStep (s : State) : State := { s with seqStep := s.seqStep + 1 }

/-- Completion, `respond(result)` (R12, R24, R151): zero-extended to RESULT_BITS, the unit back in IDLE. The command latches
and `rd_latch` keep their last values until the next command writes them: between commands the spec leaves them
unspecified (R21, R25, U11; DESIGN CHOICE, log entry 1). -/
def respond (result : Nat) (s : State) : State :=
  { s with
    rspData := zeroExtend s.params.resultBits result
    rspValid := true
    phase := .idle
    seqStep := 0
    rspLog := s.rspLog ++ [zeroExtend s.params.resultBits result] }

/-- The fault codes of R201. -/
def faultCodeOf : FaultCause → BitVec 2
  | .reservedBits => 1#2
  | .illegalField => 2#2
  | .negativeValue => 3#2

/-- Fault entry (R203): "step stays 0, rsp_valid stays 0", no latch written, no transaction issued. -/
def raiseFault (c : FaultCause) (s : State) : State :=
  { s with faultCode := faultCodeOf c, phase := .fault }

/-- Reset of the unit (R230): the only return from FAULT (R204). The chip, the parameters, the host and the
observation of the run are not touched (R231). The latches are unspecified after reset and hold the values of
`State.reset` (DESIGN CHOICE, log entry 1). An outstanding transaction is over (R232). -/
def resetUnit (s : State) : State :=
  { s with
    phase := .idle
    seqStep := 0
    rspValid := false
    faultCode := 0#2
    cOp := 0#2
    cField := 0#3
    cValue := 0
    rdLatch := 0#8
    rspData := 0
    busHung := false }

/-- The host's acknowledge (R24). With no response pending it changes nothing (DESIGN CHOICE, log entry 12). -/
def acknowledgeResponse (s : State) : State :=
  { s with
    rspValid := false
    acknowledged := if s.rspValid = true then s.acknowledged + 1 else s.acknowledged }

/-- The status port: `phase` and `fault_code`, readable at any time (R26, R29). -/
def statusPort (s : State) : Phase × BitVec 2 := (s.phase, s.faultCode)

/-- The latches of an accepted command (R150): `c_op` and `c_field` from the header, `c_value` for SET_FIELD only.
`rd_latch` keeps the last command's byte until the first BusRead of this one (R25 leaves it unspecified; DESIGN CHOICE,
log entry 1). -/
def latchCommand (i : Instr) (s : State) : State :=
  { s with
    cOp := (encode s.params.valueBits i).op
    cField := (encode s.params.valueBits i).tag
    cValue := match i with
      | .setField _ v => v.toNat
      | .getField _ => s.cValue
      | .getFieldRaw _ => s.cValue
      | .restartIntegrity => s.cValue
    phase := .busy
    seqStep := 0 }

/-- The command the latches hold: the header and operand they were written from, decoded again (R21, R23). -/
def latchedCommand (s : State) : Option Instr :=
  match decode s.params.valueBits ⟨headerOf s.cOp s.cField, s.cValue⟩ with
  | .ok i => some i
  | .error _ => none

/-- The operand of the command is negative (R64). -/
def negativeOperand : Instr → Bool
  | .setField _ v => decide (v < 0)
  | .getField _ => false
  | .getFieldRaw _ => false
  | .restartIntegrity => false

/-- Acceptance (R150): the latches are written and the unit is BUSY at step 0. The decoder gives only well-formed
commands; of the others, a negative SET_FIELD operand faults as it does in the decoder (R64, R201; DESIGN CHOICE, log
entry 14) and one the port cannot carry is refused (U17). -/
def acceptCommand (i : Instr) (s : State) : Host.Outcome State Fault Refusal :=
  if i.wf s.params.valueBits = true then .next (latchCommand i s)
  else if negativeOperand i = true then .next (raiseFault .negativeValue s)
  else .refused .operandNotExpressible

/-- What the unit does about the command `i` in one step. IDLE with no response pending: it accepts `i`. BUSY with
`i` in its latches: it carries out the current step of `i`'s row of the step table, `row`. In every other case `i` is
held: "the unit neither takes nor drops it" (R150). One call is one step of the machine (DESIGN CHOICE, log
entry 14). -/
def serveCommand (i : Instr) (row : State → Host.Outcome State Fault Refusal) (s : State) :
    Host.Outcome State Fault Refusal :=
  match s.phase with
  | .idle => if s.rspValid = true then .next s else acceptCommand i s
  | .busy => if latchedCommand s = some i then row s else .next s
  | .fault => .next s

/-- One BusWrite step whose address and data come from WRITE_MUX, followed by `after` (R129). -/
def muxWrite (sel : MuxSelect) (f : TimeField) (v : Int) (after : State → State) (s : State) :
    Host.Outcome State Fault Refusal :=
  match writeMux s.params sel f v s.rdLatch with
  | some (a, d) => .next (after (busWrite a d s))
  | none => .refused .encoderDomain

/-- One BusSetAddr step whose address comes from READ_ADDR_MUX (R130). -/
def muxSetAddr (sel : MuxSelect) (f : TimeField) (s : State) : Host.Outcome State Fault Refusal :=
  .next (advanceStep (busSetAddr (readAddrMux s.params sel f) s))

end Sys2Proof.Machine
end

