-- ==== Sys2Proof/Machine/Read.lean ====
section
/-! DEFINITION. The two commands that read the chip: GET_FIELD (42_commands.md R153) and GET_FIELD_RAW (R154). -/

namespace Sys2Proof.Machine

/-- The two steps of a read command: address, then read and respond with a function of the byte read (R157). -/
def readRow (f : TimeField) (result : Byte → Nat) (s : State) : Host.Outcome State Fault Refusal :=
  match s.seqStep with
  | 0 => muxSetAddr .field f s
  | 1 => .next (respond (result (busRead s).rdLatch) (busRead s))
  | _ => .refused .noSuchStep

/-- GET_FIELD (R153): the response is the masked, decoded, clamped value with its offset. -/
def execGetField (f : TimeField) (s : State) : Host.Outcome State Fault Refusal :=
  serveCommand (.getField f) (readRow f (fieldResult (s.params.table.row f))) s

/-- GET_FIELD_RAW (R154): the response is the byte read, untouched. -/
def execGetFieldRaw (f : TimeField) (s : State) : Host.Outcome State Fault Refusal :=
  serveCommand (.getFieldRaw f) (readRow f BitVec.toNat) s

end Sys2Proof.Machine
end

