-- ==== Sys2Proof/Machine/Write.lean ====
section
/-! DEFINITION. The two commands that write the chip: SET_FIELD (42_commands.md R152) and RESTART_INTEGRITY (R155).
Their last three steps are the same transactions, "always issued" (R156). -/

namespace Sys2Proof.Machine

/-- The steps of RESTART_INTEGRITY, counted from 0: address, read, rewrite (R155). -/
def integrityRestart (n : Nat) (s : State) : Host.Outcome State Fault Refusal :=
  match n with
  | 0 => muxSetAddr .integrity .second s
  | 1 => .next (advanceStep (busRead s))
  | 2 => muxWrite .integrity .second 0 (respond 0) s
  | _ => .refused .noSuchStep

/-- SET_FIELD's row of the step table (R152, R157): the field write, then the integrity restart. -/
def setFieldRow (f : TimeField) (v : Int) (s : State) : Host.Outcome State Fault Refusal :=
  match s.seqStep with
  | 0 => muxWrite .field f v advanceStep s
  | n + 1 => integrityRestart n s

/-- SET_FIELD (R152). -/
def execSetField (f : TimeField) (v : Int) (s : State) : Host.Outcome State Fault Refusal :=
  serveCommand (.setField f v) (setFieldRow f v) s

/-- RESTART_INTEGRITY's row of the step table (R155, R157). -/
def restartIntegrityRow (s : State) : Host.Outcome State Fault Refusal :=
  integrityRestart s.seqStep s

/-- RESTART_INTEGRITY (R155). -/
def execRestartIntegrity (s : State) : Host.Outcome State Fault Refusal :=
  serveCommand .restartIntegrity restartIntegrityRow s

end Sys2Proof.Machine
end

