-- ==== Sys2Proof/Machine/Dispatch.lean ====
section
/-! DEFINITION. One arm per command of the opcode table. -/

namespace Sys2Proof.Machine

def exec (i : Instr) (s : State) : Host.Outcome State Fault Refusal :=
  match i with
  | .setField f v => Sys2Proof.Machine.execSetField f v s
  | .getField f => Sys2Proof.Machine.execGetField f s
  | .getFieldRaw f => Sys2Proof.Machine.execGetFieldRaw f s
  | .restartIntegrity => Sys2Proof.Machine.execRestartIntegrity s

end Sys2Proof.Machine
end

