-- ==== Sys2Proof/Machine/Sequencer.lean ====
section
/-! DEFINITION. What one step does around a command: which event comes next, what the unit, the host and reset do at
it (00_scope.md R7; 42_commands.md R150, R161; 60_exceptions.md R207; 70_reset_and_hazards.md R230 to R232). -/

namespace Sys2Proof.Machine

/-- The event of a step for which no input is listed: the host acknowledges a response, and otherwise the unit
moves (R161, R244; DESIGN CHOICE, log entry 6). -/
def defaultEvent (s : State) : Event := if s.rspValid = true then .acknowledge else .advance

/-- The free values of a step for which no input is listed (R33, R34, U7, U10, U15). -/
def freeDraw (n : Nat) : Draw :=
  ⟨Config.freeByte n, Config.freeFlag n, Config.freePtr n, Config.freeDrift n⟩

/-- The event and the free values of the next step. -/
def nextInput (s : State) : Input :=
  match s.inputs with
  | i :: _ => i
  | [] => ⟨defaultEvent s, freeDraw s.drawCount⟩

/-- The state in which the next step's event happens: its input taken, its free values in place. -/
def takeInput (s : State) : State :=
  { s with inputs := s.inputs.tail, draw := (nextInput s).draw, drawCount := s.drawCount + 1 }

/-- The command on the port is taken from it at acceptance (R150), a faulting one too (DEDUCED from V10, log
entry 11). -/
def takeCommand (s : State) : State := { s with commands := s.commands.tail, taken := s.taken + 1 }

/-- IDLE with no response pending: the command on the port, if there is one, is accepted or faults (R65, R150). -/
def acceptFromPort (s : State) : Host.Outcome State Fault Refusal :=
  match s.commands with
  | [] => .next s
  | c :: _ =>
    match decode s.params.valueBits c with
    | .ok i => exec i (takeCommand s)
    | .error cause => .next (raiseFault cause (takeCommand s))

/-- The unit moves. IDLE: acceptance, unless a response is pending (R150). BUSY: the step of the latched command,
unless its transaction never completes, when the unit stays BUSY at that step (R207) and the chip and the bus stay as
the hang left them (DESIGN CHOICE, log entry 10: R45 and R207 leave it open). FAULT: nothing (R204). -/
def unitStep (s : State) : Host.Outcome State Fault Refusal :=
  match s.phase with
  | .idle => if s.rspValid = true then .next s else acceptFromPort s
  | .busy =>
    if s.busHung = true then .next s
    else
      match latchedCommand s with
      | some i => exec i s
      | none => .refused .latchesNoCommand
  | .fault => .next s

/-- The outstanding transaction of a BUSY unit has its effect on the chip and the bus, and none on the unit (R232;
DESIGN CHOICE of the form, log entry 10). -/
def landOutstanding (s : State) : State :=
  match s.phase with
  | .idle => s
  | .fault => s
  | .busy =>
    match latchedCommand s with
    | none => s
    | some i =>
      match exec i s with
      | .next t => { s with chip := t.chip, ptr := t.ptr, busLog := t.busLog }
      | .fault _ => s
      | .refused _ => s

/-- The outstanding transaction has reached the chip or not, as the event says (R232, U13). What became of one that
hangs was said when it hung (log entry 10). -/
def landIf (landed : Bool) (s : State) : State :=
  if landed = true ∧ s.busHung = false then landOutstanding s else s

/-- The outstanding transaction of a BUSY unit will never complete (R207), having reached the chip or not: R45, R207 and D14
leave that open, and the event says it (DESIGN CHOICE, log entry 10). Outside BUSY there is none. -/
def hangEvent (landed : Bool) (s : State) : State :=
  if s.phase = .busy then { landIf landed s with busHung := true } else s

/-- The reset event (R230, R232). -/
def resetEvent (landed : Bool) (s : State) : State := resetUnit (landIf landed s)

/-- What an event does. Whether a transaction that hangs has reached the chip is the event's to say (DESIGN CHOICE, log
entry 10). -/
def runEvent (e : Event) (s : State) : Host.Outcome State Fault Refusal :=
  match e with
  | .advance => unitStep s
  | .present c => .next { s with commands := s.commands ++ [c] }
  | .acknowledge => .next (acknowledgeResponse s)
  | .readResponse => if s.rspValid = true then .next s else .fault .responseUndefined
  | .stall => .next s
  | .hang landed => .next (hangEvent landed s)
  | .reset landed => .next (resetEvent landed s)

/-- The unit ready for a command (IDLE, no response pending, no fault), no input listed, and `c` on the command
port before the commands already presented. -/
def placeCommand (c : Command) (s : State) : State :=
  { s with
    phase := .idle
    seqStep := 0
    rspValid := false
    faultCode := 0#2
    busHung := false
    inputs := []
    commands := c :: s.commands }

end Sys2Proof.Machine
end

