-- ==== Sys2Proof/Machine/Step.lean ====
section
/-! DEFINITION. One step of the machine: one event (92_eei_decisions.md D1). -/

namespace Sys2Proof.Machine

/-- One step. A machine whose parameters fail a check of R122, or whose ports are too narrow, is not accepted. -/
def step (s : State) : Host.Outcome State Fault Refusal :=
  if s.params.wf = true then runEvent (nextInput s).event (takeInput s)
  else if s.params.tableOk = true then .refused .portsIllFormed
  else .refused .tableIllFormed

/-- `s` with the command whose bits are `w` on the command port, and the unit ready to take it at the next step
(log entry 3). -/
def State.withFetchWord (s : State) (nbits w : Nat) : State := placeCommand (commandOfWord nbits w) s

end Sys2Proof.Machine
end

