-- ==== Sys2Proof/Machine/Assembler.lean ====
section
/-! DEFINITION. The assembler of 30_encoding.md R74: a line of text, the statement it spells, the words it assembles
to, and the written form of those words. There are no pseudo-instructions (R75). Blanks, letter case and line shape
are read as log entry 17 says (DESIGN CHOICE). -/

namespace Sys2Proof.Machine

/-- One line of assembly, as parsed: the value of SET_FIELD is any written integer (R74). -/
inductive AsmLine where
  | setField (f : TimeField) (value : Int)
  | getField (f : TimeField)
  | getFieldRaw (f : TimeField)
  | restartIntegrity
  deriving DecidableEq, Repr

/-- The words a line assembles to for a port of `n = VALUE_BITS` bits: two's complement in OPND, "A value outside
`-2^31 .. 2^31 - 1` is refused by the assembler" (`n = 32`), and `OPND = 0` for the commands that ignore it (R74). -/
def assemble (n : Nat) : AsmLine → Option Command
  | .setField f v =>
    if -((2 ^ (n - 1) : Nat) : Int) ≤ v ∧ v < (2 ^ (n - 1) : Nat) then some (encode n (.setField f v)) else none
  | .getField f => some (encode n (.getField f))
  | .getFieldRaw f => some (encode n (.getFieldRaw f))
  | .restartIntegrity => some (encode n .restartIntegrity)

/-- The field names, "spelled as in the source's TimeField enumeration" (R74). -/
def fieldName : TimeField → String
  | .year => "Year"
  | .month => "Month"
  | .day => "Day"
  | .weekday => "Weekday"
  | .hour => "Hour"
  | .minute => "Minute"
  | .second => "Second"

/-- The field a word names. -/
def parseField (w : List Char) : Option TimeField :=
  TimeField.all.find? fun f => (fieldName f).toList == w

/-- The value of a digit in a base of at most 16; hexadecimal letters in either case. -/
def digitValue (base : Nat) (c : Char) : Option Nat :=
  let n :=
    if '0' ≤ c ∧ c ≤ '9' then c.toNat - '0'.toNat
    else if 'a' ≤ c ∧ c ≤ 'f' then c.toNat - 'a'.toNat + 10
    else if 'A' ≤ c ∧ c ≤ 'F' then c.toNat - 'A'.toNat + 10
    else base
  if n < base then some n else none

/-- The digits of a word, after the value `acc` of those already read. -/
def parseDigits (base : Nat) : List Char → Nat → Option Nat
  | [], acc => some acc
  | c :: cs, acc =>
    match digitValue base c with
    | some n => parseDigits base cs (acc * base + n)
    | none => none

/-- A decimal or `0x` hexadecimal number with at least one digit. -/
def parseNumber : List Char → Option Nat
  | [] => none
  | ['0', 'x'] => none
  | '0' :: 'x' :: ds => parseDigits 16 ds 0
  | ds => parseDigits 10 ds 0

/-- "a decimal or `0x` hexadecimal integer, optionally preceded by `-`" (R74). -/
def parseValue : List Char → Option Int
  | '-' :: ds => (parseNumber ds).map fun n => -(n : Int)
  | ds => (parseNumber ds).map fun n => (n : Int)

/-- The line without its comment: "`;` starts a comment" (R74). -/
def stripComment : List Char → List Char
  | [] => []
  | c :: cs => if c = ';' then [] else c :: stripComment cs

/-- The words of a line: blanks separate them, and a comma or a parenthesis is a word of its own. `acc` is the word
in progress. -/
def lineWords : List Char → List Char → List (List Char)
  | [], acc => if acc = [] then [] else [acc]
  | c :: cs, acc =>
    let done := if acc = [] then [] else [acc]
    if c = ' ' ∨ c = '\t' then done ++ lineWords cs []
    else if c = ',' ∨ c = '(' ∨ c = ')' then done ++ [c] :: lineWords cs []
    else lineWords cs (acc ++ [c])

/-- A line `MNEMONIC args` or its exact synonym `apiName(args)` (R74). -/
def parseWords : List (List Char) → Option AsmLine
  | [op] => if op = "RESTART_INTEGRITY".toList then some .restartIntegrity else none
  | [op, f] =>
    if op = "GET_FIELD".toList then (parseField f).map .getField
    else if op = "GET_FIELD_RAW".toList then (parseField f).map .getFieldRaw
    else none
  | [op, ['('], [')']] => if op = "restartClockIntegrity".toList then some .restartIntegrity else none
  | [op, f, [','], v] =>
    if op = "SET_FIELD".toList then
      match parseField f, parseValue v with
      | some f, some v => some (.setField f v)
      | _, _ => none
    else none
  | [op, ['('], f, [')']] =>
    if op = "getField".toList then (parseField f).map .getField
    else if op = "getFieldRaw".toList then (parseField f).map .getFieldRaw
    else none
  | [op, ['('], f, [','], v, [')']] =>
    if op = "setField".toList then
      match parseField f, parseValue v with
      | some f, some v => some (.setField f v)
      | _, _ => none
    else none
  | _ => none

/-- One line of text: `some none` for a line that holds no command, `none` for one the assembler refuses (R74). -/
def assembleText (n : Nat) (line : String) : Option (Option Command) :=
  match lineWords (stripComment line.toList) [] with
  | [] => some none
  | ws =>
    match parseWords ws with
    | some a => (assemble n a).map some
    | none => none

/-- The canonical spelling of a line, the value in decimal (R74). -/
def asmText : AsmLine → String
  | .setField f v => "SET_FIELD " ++ fieldName f ++ ", " ++ toString v
  | .getField f => "GET_FIELD " ++ fieldName f
  | .getFieldRaw f => "GET_FIELD_RAW " ++ fieldName f
  | .restartIntegrity => "RESTART_INTEGRITY"

/-- One hexadecimal digit, in capitals. -/
def hexDigit (n : Nat) : Char :=
  if n < 10 then Char.ofNat ('0'.toNat + n) else Char.ofNat ('A'.toNat + (n - 10))

/-- The low `k` hexadecimal digits of a number, most significant first. -/
def hexDigits : Nat → Nat → List Char
  | 0, _ => []
  | k + 1, n => hexDigits k (n / 16) ++ [hexDigit (n % 16)]

/-- "The assembled form is written `CMD=0xHH OPND=0xHHHHHHHH`" (R74), with as many digits as OPND needs. -/
def assembledForm (n : Nat) (c : Command) : String :=
  "CMD=0x" ++ String.ofList (hexDigits 2 c.cmd.toNat) ++ " OPND=0x" ++ String.ofList (hexDigits ((n + 3) / 4) (operandBits n c.opnd))

end Sys2Proof.Machine
end

