-- ==== Sys2Proof/Safety.lean ====
section
/-! DEFINITION. The terms claims use: the invariant every step keeps, how a run ends (42_commands.md R161), and what
is observed of it. -/

namespace Sys2Proof.Machine

/-- What the control state may be (R21, R22, R26, R203): IDLE and FAULT stand at step 0; FAULT has a fault code and
no response; BUSY has no response, no fault code, a well-formed command in its latches, and a step of that command's
row. -/
def ControlInv (s : State) : Prop :=
  match s.phase with
  | .idle => s.seqStep = 0 ∧ s.faultCode = 0#2
  | .fault => s.seqStep = 0 ∧ s.rspValid = false ∧ s.faultCode ≠ 0#2
  | .busy =>
    s.rspValid = false ∧ s.faultCode = 0#2 ∧
      ∃ i, latchedCommand s = some i ∧ s.seqStep < transactions i

/-- The chip's pointer at a BusRead (R32, R157): "every `BusRead` it issues directly follows a `BusSetAddr` of the same
command", so PTR is the address that was set. (A read that hangs has no later use of it.) -/
def PointerInv (s : State) : Prop :=
  ∀ i, s.phase = .busy → s.busHung = false → latchedCommand s = some i → s.seqStep = readStep i → s.ptr = readTarget s.params i

/-- `rd_latch` at the integrity rewrite (R25, R156): under PASSIVE the Second register still holds the byte read from
it. -/
def RewriteInv (s : State) : Prop :=
  ∀ i, s.params.env = .passive → s.phase = .busy → s.busHung = false → latchedCommand s = some i → s.seqStep = readStep i + 1 →
    s.rdLatch = Memory.readByte s.chip (secondAddr s.params)

/-- The counts of the run: no command responds that was not taken from the port, the one in progress or at fault has not
responded, and no response is acknowledged before it is given or while it is pending (R24, R151, R161, R203). -/
def RunInv (s : State) : Prop :=
  s.rspLog.length + (if s.phase = .idle then 0 else 1) ≤ s.taken ∧
    s.acknowledged + (if s.rspValid = true then 1 else 0) ≤ s.rspLog.length

/-- The invariant of the machine. -/
structure Invariant (s : State) : Prop where
  table : s.params.wf = true
  chip : Memory.wf s.chip
  control : ControlInv s
  hung : s.busHung = true → s.phase = .busy
  pointer : PointerInv s
  rewrite : RewriteInv s
  run : RunInv s

/-- Ready for a command: the condition of acceptance (R150). -/
def Ready (s : State) : Prop := s.phase = .idle ∧ s.rspValid = false

/-- A command taken from the port is still in progress, or its response waits for the acknowledge. -/
def pendingCommands (s : State) : Nat := if s.phase = .busy then 1 else if s.rspValid = true then 1 else 0

/-- The commands of the run that were taken from the port and will never have a response acknowledged: those that faulted
(R203), those that a reset aborted (R232), and those whose response a reset took back (R230). -/
def lostCommands (s : State) : Nat := s.taken - s.acknowledged - pendingCommands s

/-- The run is completed (R161 case 1): "Every command has been accepted and has completed, and its response has been
acknowledged". None is on the port or still to be presented, every one taken from the port has responded, every response
has been acknowledged, and the unit is in IDLE with `rsp_valid = 0`. The run is everything since its start state, resets
included (log entry 13). -/
def Completed (s : State) : Prop :=
  s.phase = .idle ∧ s.rspValid = false ∧ s.commands = [] ∧ (∀ x ∈ s.inputs, ∀ c, x.event ≠ .present c) ∧
    s.rspLog.length = s.taken ∧ s.acknowledged = s.taken

/-- The run is faulted (R161 case 2). -/
def Faulted (s : State) : Prop := s.phase = .fault

/-- The run is stuck (R161 case 3, R207). -/
def Stuck (s : State) : Prop := s.phase = .busy ∧ s.busHung = true

/-- The observation of a run (R161): transactions, responses, final `phase` and `fault_code`, and under PASSIVE the
final CHIP. -/
def observation (s : State) : List BusTxn × List Nat × Phase × BitVec 2 × Option Memory :=
  (s.busLog, s.rspLog, s.phase, s.faultCode, if s.params.env = .passive then some s.chip else none)

/-- `s` with the environment's choices for the next transaction. -/
def withDraw (d : Draw) (s : State) : State := { s with draw := d }

/-- An `advance` with the environment's choices. -/
def advanceWith (d : Draw) : Input := ⟨.advance, d⟩

/-- The addresses of the field table: "Register addresses outside the table are never on the bus" (R35). -/
def tableAddr (p : Params) (a : Byte) : Prop := ∃ f : TimeField, (p.table.row f).addr = a

end Sys2Proof.Machine
end

