-- ==== Sys2Proof/Certificates/Slice0/Obligations.lean ====
section
/-! DEFINITION. The statements for the provers, each from the numbered rules its docstring names. -/

open Sys2Proof Sys2Proof.Machine

/-! ### The codec -/

/-- R101: on 0..99 the encoder gives the byte with the tens in bits 7..4 and the units in bits 3..0, which is
`(w div 10) * 16 + (w mod 10)`, always valid BCD, at most 0x99, with bit 7 set only for `w >= 80`. -/
def Obligations.EncodeBcdPacksTensAndUnits : Prop :=
  ∀ w : Nat, w ≤ 99 →
    ∃ b : Byte, encodeBCD w = some b ∧ b.extractLsb' 4 4 = BitVec.ofNat 4 (w / 10) ∧
      b.extractLsb' 0 4 = BitVec.ofNat 4 (w % 10) ∧ b.toNat = w / 10 * 16 + w % 10 ∧ b.toNat ≤ 0x99 ∧
      validBCD b = true ∧ (b.getLsbD 7 = true → 80 ≤ w)

/-- R102: the encoder alone refuses every input outside 0..99; and in an accepted table the unit presents it only
`v mod MOD`, which is at most 99. -/
def Obligations.EncoderRefusesOutsideItsDomainAndUnitStaysInside : Prop :=
  (∀ w : Int, w < 0 ∨ 99 < w → encodeBCD w = none) ∧
    ∀ (p : Params) (f : TimeField) (v : Int), p.wf = true → 0 ≤ v →
      ∃ w : Nat, normalise (p.table.row f) v = some w ∧ w = v.toNat % (p.table.row f).mod ∧ w ≤ 99

/-- R104 and R103: the decoder's value on every byte, with no validity check, and its range 0..165. -/
def Obligations.DecodeBcdIsTheFormulaOnEveryByte : Prop :=
  (∀ raw : Byte, decodeBCD raw = (raw.extractLsb' 4 4).toNat * 10 + (raw.extractLsb' 0 4).toNat ∧
    decodeBCD raw ≤ 165) ∧ decodeBCD 0xFF#8 = 165 ∧ decodeBCD 0x99#8 = 99 ∧ decodeBCD 0x0A#8 = decodeBCD 0x10#8

/-- R105, the four codec laws: round trip; reverse round trip exactly on valid bytes (0x0A comes back as 0x10), and
outside the encoder's domain above 99; injectivity on valid bytes and not on all; strict monotonicity. -/
def Obligations.CodecRoundTripInjectivityMonotonicity : Prop :=
  (∀ v : Nat, v ≤ 99 → ∃ b, encodeBCD v = some b ∧ decodeBCD b = v) ∧
    (∀ b : Byte, encodeBCD (decodeBCD b) = some b ↔ b.extractLsb' 4 4 ≤ 9#4 ∧ b.extractLsb' 0 4 ≤ 9#4) ∧
    encodeBCD (decodeBCD 0x0A#8) = some 0x10#8 ∧
    (∀ b : Byte, 99 < decodeBCD b → encodeBCD (decodeBCD b) = none) ∧
    (∀ b c : Byte, validBCD b = true → validBCD c = true → decodeBCD b = decodeBCD c → b = c) ∧
    (∃ b c : Byte, b ≠ c ∧ decodeBCD b = decodeBCD c) ∧
    (∀ v w : Nat, v < w → w ≤ 99 →
      ∃ b c, encodeBCD v = some b ∧ encodeBCD w = some c ∧ b.toNat < c.toNat)

/-! ### The field table -/

/-- R121 and R8: the default parameters, cell by cell, and they pass the checks of R122. Not the spec's alone: the GK
cells and 0x51 are PRESUMED (log entry 9, after the spec's own mark), that `P_YEAR_OFFSET` is the OFFSET of the Year row
and that R8's two widths are the ports' is log entry 4, and FREE as the one default is the model's choice (log entry 8:
R8 names FREE for claims and PASSIVE for test vectors). -/
def Obligations.DefaultParametersAreTheTableOfTheSpec : Prop :=
  defaultTable.year = ⟨0x08#8, 0xFF#8, 0, 99, 100, 2000⟩ ∧ defaultTable.month = ⟨0x07#8, 0x1F#8, 1, 12, 13, 0⟩ ∧
    defaultTable.day = ⟨0x05#8, 0x3F#8, 1, 31, 32, 0⟩ ∧ defaultTable.weekday = ⟨0x06#8, 0x07#8, 0, 6, 7, 0⟩ ∧
    defaultTable.hour = ⟨0x04#8, 0x3F#8, 0, 23, 24, 0⟩ ∧ defaultTable.minute = ⟨0x03#8, 0x7F#8, 0, 59, 60, 0⟩ ∧
    defaultTable.second = ⟨0x02#8, 0x7F#8, 0, 59, 60, 0⟩ ∧ defaultParams.table = defaultTable ∧
    defaultParams.devAddr = 0x51#7 ∧ defaultParams.integrityBit = 7 ∧ yearOffset defaultParams = 2000 ∧
    defaultParams.env = .free ∧ defaultParams.valueBits = 32 ∧ defaultParams.resultBits = 16 ∧ defaultParams.wf = true

/-- R122: a table is accepted exactly when WF1 to WF6 hold, and the default table is accepted. -/
def Obligations.TableAcceptedExactlyWhenChecksHold : Prop :=
  (∀ p : Params, p.tableOk = true ↔
    (∀ f, (p.table.row f).min ≤ (p.table.row f).max) ∧
      (∀ f, 1 ≤ (p.table.row f).mod ∧ (p.table.row f).mod ≤ 100) ∧
      (∀ f w, w < (p.table.row f).mod →
        ∃ b, encodeBCD (w : Nat) = some b ∧ b &&& ~~~(p.table.row f).mask &&& 0xFF#8 = 0#8) ∧
      p.table.second.mask.getLsbD p.integrityBit.val = false ∧
      (∀ f g, (p.table.row f).addr = (p.table.row g).addr → f = g) ∧
      (∀ f, (p.table.row f).max + (p.table.row f).offset < 2 ^ p.resultBits)) ∧
    defaultParams.tableOk = true

/-- A machine whose table is not accepted takes no step: it refuses by name, the model's form of R122's "accepts a table
only if" (log entry 7). Nor does one with a port too narrow for what the spec puts on it (log entry 4). -/
def Obligations.MachineWithIllFormedTableTakesNoStep : Prop :=
  ∀ s : State,
    (s.params.tableOk = false → step s = .refused .tableIllFormed) ∧
      (s.params.tableOk = true → (s.params.valueBits < 1 ∨ s.params.resultBits < 8) →
        step s = .refused .portsIllFormed)

/-- R120: the ROM has the row of each of the tags 0 to 6 and refuses tag 7, with no default. -/
def Obligations.FieldRomHasSevenRowsAndRefusesTagSeven : Prop :=
  ∀ (t : FieldTable) (tag : BitVec 3),
    (t.lookup tag = none ↔ tag = 7#3) ∧
      t.lookup 0#3 = some t.year ∧ t.lookup 1#3 = some t.month ∧ t.lookup 2#3 = some t.day ∧
      t.lookup 3#3 = some t.weekday ∧ t.lookup 4#3 = some t.hour ∧ t.lookup 5#3 = some t.minute ∧
      t.lookup 6#3 = some t.second

/-- R123 and R124: a SET_FIELD operand is reduced to the remainder, in `0 .. MOD - 1`, and never refused; the byte
written is the BCD encoding of the remainder, with every bit outside the field's mask 0. -/
def Obligations.WriteDataIsBcdOfRemainderInsideMask : Prop :=
  ∀ (p : Params) (f : TimeField) (v : Int), p.wf = true → 0 ≤ v →
    ∃ (w : Nat) (d : Byte), normalise (p.table.row f) v = some w ∧
      w = v.toNat % (p.table.row f).mod ∧ w < (p.table.row f).mod ∧ encodeBCD (w : Int) = some d ∧
      writeData (p.table.row f) v = some d ∧ decodeBCD d = w ∧ validBCD d = true ∧
      d &&& ~~~(p.table.row f).mask = 0#8

/-- R131: CLEAR_INTEGRITY clears bit `P_INTEGRITY_BIT` and keeps every other bit; with bit 7 it is `b & 0x7F`. -/
def Obligations.ClearIntegrityClearsOneBitOnly : Prop :=
  ∀ (p : Params) (b : Byte),
    (∀ i : Nat, (clearIntegrity p b).getLsbD i = if i = p.integrityBit.val then false else b.getLsbD i) ∧
      (p.integrityBit = 7 → clearIntegrity p b = b &&& 0x7F#8)

/-- R132: with the default table, a calendar year and the chip-relative year write the same byte; 2024 writes 0x24;
1999 writes 0x99, which reads back as 2099. -/
def Obligations.YearWriteIgnoresTheCentury : Prop :=
  (∀ v : Nat, 2000 ≤ v → writeData defaultTable.year v = writeData defaultTable.year ((v : Int) - 2000)) ∧
    writeData defaultTable.year 2024 = some 0x24#8 ∧ writeData defaultTable.year 24 = some 0x24#8 ∧
    writeData defaultTable.year 1999 = some 0x99#8 ∧ fieldResult defaultTable.year 0x99#8 = 2099

/-- R133 and R134: Month 13 and Day 32 write 0x00, which reads back as 1; no Month write ever stores 13; Day 31 writes
0x31. -/
def Obligations.MonthAndDayWrapToZeroAndReadBackAsOne : Prop :=
  writeData defaultTable.month 13 = some 0x00#8 ∧ fieldResult defaultTable.month 0x00#8 = 1 ∧
    (∀ v : Int, writeData defaultTable.month v ≠ some 0x13#8) ∧
    writeData defaultTable.day 32 = some 0x00#8 ∧ writeData defaultTable.day 31 = some 0x31#8 ∧
    fieldResult defaultTable.day 0x00#8 = 1

/-- R125 to R127: the read result is the decoding of the masked byte, capped at MIN and MAX, plus OFFSET. -/
def Obligations.ReadPathMasksDecodesClampsOffsets : Prop :=
  ∀ (d : FieldDesc) (raw : Byte), d.min ≤ d.max →
    (decodeBCD (raw &&& d.mask) < d.min → fieldResult d raw = d.min + d.offset) ∧
      (d.max < decodeBCD (raw &&& d.mask) → fieldResult d raw = d.max + d.offset) ∧
      (d.min ≤ decodeBCD (raw &&& d.mask) → decodeBCD (raw &&& d.mask) ≤ d.max →
        fieldResult d raw = decodeBCD (raw &&& d.mask) + d.offset)

/-! ### The encoding -/

/-- Decode and encode agree on every command, for every width of OPND: every operand at every value the encoding admits
comes back. -/
def Obligations.DecodeOfEncodeIsTheCommand : Prop :=
  ∀ (n : Nat) (i : Instr), i.wf n = true → decode n (encode n i) = .ok i

/-- The other direction (R64, R67): what the decoder takes is well formed, has exactly the header the encoder writes,
and, for SET_FIELD, exactly the operand bits; the other commands ignore OPND. For every width of OPND. -/
def Obligations.DecodedWordIsTheEncodingUpToIgnoredOperand : Prop :=
  ∀ (n : Nat) (c : Command) (i : Instr), decode n c = .ok i →
    i.wf n = true ∧ (encode n i).cmd = c.cmd ∧
      ((∃ f v, i = .setField f v ∧ (encode n i).opnd = operandBits n c.opnd) ∨
        ∀ o : Nat, decode n ⟨c.cmd, o⟩ = .ok i)

/-- R202: with several causes the first of RESERVED_BITS, ILLEGAL_FIELD, NEGATIVE_VALUE is reported; the causes and the
codes are those of R201. For every width `n = VALUE_BITS` of OPND with a sign bit. -/
def Obligations.FaultCausesByPriority : Prop :=
  (∀ (n : Nat) (c : Command), 1 ≤ n →
    (decode n c = .error .reservedBits ↔
      c.cmd.extractLsb' 5 3 ≠ 0#3 ∨ (c.cmd.extractLsb' 3 2 = 3#2 ∧ c.cmd.extractLsb' 0 3 ≠ 0#3)) ∧
    (decode n c = .error .illegalField ↔
      c.cmd.extractLsb' 5 3 = 0#3 ∧ c.cmd.extractLsb' 3 2 ≠ 3#2 ∧ c.cmd.extractLsb' 0 3 = 7#3) ∧
    (decode n c = .error .negativeValue ↔
      c.cmd.extractLsb' 5 3 = 0#3 ∧ c.cmd.extractLsb' 3 2 = 0#2 ∧ c.cmd.extractLsb' 0 3 ≠ 7#3 ∧
        c.opnd.testBit (n - 1) = true)) ∧
    decode 32 ⟨0x27#8, 0⟩ = .error .reservedBits ∧ decode 32 ⟨0x07#8, 0xFFFFFFFF⟩ = .error .illegalField ∧
    faultCodeOf .reservedBits = 1#2 ∧ faultCodeOf .illegalField = 2#2 ∧ faultCodeOf .negativeValue = 3#2

/-- R65 and R67: the decoder is total: the 22 legal headers and the command each spells, a negative SET_FIELD operand's
fault, and every other header with its fault. For every width `n = VALUE_BITS` of OPND with a sign bit. -/
def Obligations.LegalHeadersAreTheTwentyTwo : Prop :=
  ∀ n : Nat, 1 ≤ n →
    (∀ (f : TimeField) (o : Nat), o.testBit (n - 1) = false →
      decode n ⟨0x00#8 + f.tag.setWidth 8, o⟩ = .ok (.setField f (o % 2 ^ n : Nat))) ∧
    (∀ (f : TimeField) (o : Nat), o.testBit (n - 1) = true →
      decode n ⟨0x00#8 + f.tag.setWidth 8, o⟩ = .error .negativeValue) ∧
    (∀ (f : TimeField) (o : Nat), decode n ⟨0x08#8 + f.tag.setWidth 8, o⟩ = .ok (.getField f)) ∧
    (∀ (f : TimeField) (o : Nat), decode n ⟨0x10#8 + f.tag.setWidth 8, o⟩ = .ok (.getFieldRaw f)) ∧
    (∀ o : Nat, decode n ⟨0x18#8, o⟩ = .ok .restartIntegrity) ∧
    (∀ o : Nat, decode n ⟨0x07#8, o⟩ = .error .illegalField ∧ decode n ⟨0x0F#8, o⟩ = .error .illegalField ∧
      decode n ⟨0x17#8, o⟩ = .error .illegalField) ∧
    ∀ (h : Byte) (o : Nat), 0x19#8 ≤ h → decode n ⟨h, o⟩ = .error .reservedBits

/-- Words written out from the encodings of R67 and the programs P1 to P5, as the port of 32 bits and as the opcode table
number them. -/
def Obligations.WrittenOutWordsDecode : Prop :=
  decode 32 ⟨0b00000110#8, 65⟩ = .ok (.setField .second 65) ∧
    decode 32 ⟨0b00001000#8, 0⟩ = .ok (.getField .year) ∧
    decode 32 ⟨0b00010110#8, 0⟩ = .ok (.getFieldRaw .second) ∧
    decode 32 ⟨0b00011000#8, 0⟩ = .ok .restartIntegrity ∧
    decodeTableWord 8 0b00001101 = some (.getField .minute) ∧ decodeTableWord 8 0b00001111 = none ∧
    decodeTableWord 40 0x4B05 = some (.setField .minute 75)

/-- R74: the assembler encodes SET_FIELD's value in two's complement on a port of `n = VALUE_BITS` bits (R74 has `n = 32`)
and refuses exactly the values outside `-2^(n-1) .. 2^(n-1) - 1`; a non-negative value decodes back to its command and a
negative one faults when decoded; every other line assembles, with `OPND = 0`, to the command it names. -/
def Obligations.AssembledLineDecodesToItsCommand : Prop :=
  ∀ n : Nat, 1 ≤ n →
    (∀ (f : TimeField) (v : Int), (v < -(2 ^ (n - 1)) ∨ 2 ^ (n - 1) ≤ v) → assemble n (.setField f v) = none) ∧
    (∀ (f : TimeField) (v : Int), -(2 ^ (n - 1)) ≤ v → v < 2 ^ (n - 1) →
      ∃ c, assemble n (.setField f v) = some c ∧ c.opnd < 2 ^ n ∧ operandValue n c.opnd = v ∧
        (0 ≤ v → decode n c = .ok (.setField f v)) ∧ (v < 0 → decode n c = .error .negativeValue)) ∧
    (∀ f : TimeField, ∃ c, assemble n (.getField f) = some c ∧ c.opnd = 0 ∧ decode n c = .ok (.getField f)) ∧
    (∀ f : TimeField, ∃ c, assemble n (.getFieldRaw f) = some c ∧ c.opnd = 0 ∧ decode n c = .ok (.getFieldRaw f)) ∧
    ∃ c, assemble n .restartIntegrity = some c ∧ c.opnd = 0 ∧ decode n c = .ok .restartIntegrity

/-! ### Acceptance and faults -/

/-- R150 and R23: a command accepted in IDLE with no response pending writes `c_op`, `c_field` and, for SET_FIELD only,
`c_value`, and sets BUSY at step 0; nothing else changes. The latches then hold exactly that command. That `rd_latch`
keeps the last command's byte is the model's choice (log entry 1). -/
def Obligations.AcceptanceLatchesTheCommand : Prop :=
  ∀ s : State, s.phase = .idle → s.rspValid = false →
    (∀ (f : TimeField) (v : Int), 0 ≤ v → v < (2 ^ (s.params.valueBits - 1) : Nat) →
      exec (.setField f v) s =
        .next { s with phase := .busy, seqStep := 0, cOp := 0b00#2, cField := f.tag, cValue := v.toNat }) ∧
    (∀ f : TimeField, exec (.getField f) s =
      .next { s with phase := .busy, seqStep := 0, cOp := 0b01#2, cField := f.tag }) ∧
    (∀ f : TimeField, exec (.getFieldRaw f) s =
      .next { s with phase := .busy, seqStep := 0, cOp := 0b10#2, cField := f.tag }) ∧
    exec .restartIntegrity s = .next { s with phase := .busy, seqStep := 0, cOp := 0b11#2, cField := 0b000#3 } ∧
    ∀ (i : Instr) (t : State), i.wf s.params.valueBits = true → exec i s = .next t → latchedCommand t = some i

/-- R150: a command that is presented while a response is pending, in FAULT, or while another command is in progress is
held: the unit does nothing. And the command on the port stays there. That the latches keep their values between commands
is the model's choice (log entry 1). -/
def Obligations.CommandsAreHeldUnlessReady : Prop :=
  (∀ (i : Instr) (s : State),
    (s.phase = .idle ∧ s.rspValid = true) ∨ s.phase = .fault ∨ (s.phase = .busy ∧ latchedCommand s ≠ some i) →
      exec i s = .next s) ∧
    ∀ (s : State), s.params.wf = true → (nextInput s).event = .advance →
      (s.phase = .idle ∧ s.rspValid = true) ∨ s.phase = .fault → step s = .next (takeInput s)

/-- R203: a command the decoder turns down makes the unit enter FAULT with the cause's code, at acceptance: `step` stays
0 and `rsp_valid` stays 0, no latch is written, no transaction is issued, no response is produced, the chip is
untouched. And nothing else makes a unit enter FAULT. -/
def Obligations.FaultEntryIsPreciseAndTouchesNothing : Prop :=
  (∀ (s : State) (c : Command) (cs : List Command) (cause : FaultCause), Invariant s → (nextInput s).event = .advance →
    s.phase = .idle → s.rspValid = false → s.commands = c :: cs →
    decode s.params.valueBits c = .error cause →
    ∃ t, step s = .next t ∧ t.phase = .fault ∧ t.faultCode = faultCodeOf cause ∧ t.seqStep = 0 ∧
      t.rspValid = false ∧ t.cOp = s.cOp ∧ t.cField = s.cField ∧ t.cValue = s.cValue ∧ t.rdLatch = s.rdLatch ∧
      t.rspData = s.rspData ∧ t.chip = s.chip ∧ t.ptr = s.ptr ∧ t.busLog = s.busLog ∧ t.rspLog = s.rspLog ∧
      t.params = s.params) ∧
    ∀ s t : State, step s = .next t → s.phase ≠ .fault → t.phase = .fault →
      s.phase = .idle ∧ s.rspValid = false ∧
        ∃ c cs cause, s.commands = c :: cs ∧ decode s.params.valueBits c = .error cause ∧
          t.faultCode = faultCodeOf cause

/-- The meaning of a SET_FIELD whose operand is negative, a command the decoder never gives: exec enters FAULT with
NEGATIVE_VALUE and does nothing else. That exec does so is the model's own choice (DESIGN CHOICE, log entry 14), made like
the fault that R64 and R201 put on the presented word at its acceptance. -/
def Obligations.NegativeOperandFaultsAtAcceptance : Prop :=
  ∀ (f : TimeField) (v : Int) (s : State), v < 0 → s.phase = .idle → s.rspValid = false →
    exec (.setField f v) s = .next { s with phase := .fault, faultCode := 3#2 }

/-- R204: only reset leaves FAULT. Every other step of a faulted unit keeps FAULT and the code, issues no transaction,
gives no response and takes no command from the port. -/
def Obligations.OnlyResetLeavesFault : Prop :=
  ∀ s t : State, s.phase = .fault → step s = .next t →
    ((∃ landed, (nextInput s).event = .reset landed) ∧ t.phase = .idle ∧ t.faultCode = 0#2) ∨
      ((∀ landed, (nextInput s).event ≠ .reset landed) ∧ t.phase = .fault ∧ t.faultCode = s.faultCode ∧
        t.busLog = s.busLog ∧ t.rspLog = s.rspLog ∧ t.chip = s.chip ∧ ∃ cs, t.commands = s.commands ++ cs)

/-! ### The commands run -/

/-- R152 and R157: SET_FIELD completes. From IDLE with no response pending, with any free values in each of its
transactions, acceptance and its four steps issue exactly `BusWrite(T[f].ADDR, encodeBCD(v mod MOD))`,
`BusSetAddr(T[S].ADDR)`, `BusRead()`, `BusWrite(T[S].ADDR, clearIntegrity(byte read))`, and respond 0. That `rd_latch`
still holds the byte read after completion is the model's choice (log entry 1: R25 leaves it unspecified). -/
def Obligations.SetFieldCompletes : Prop :=
  ∀ (f : TimeField) (v : Int) (s : State) (d0 d1 d2 d3 : Draw), s.params.wf = true →
    0 ≤ v → v < (2 ^ (s.params.valueBits - 1) : Nat) → s.phase = .idle → s.rspValid = false →
    ∃ (t0 t1 t2 t3 t : State) (data : Byte),
      encodeBCD ((v.toNat % (s.params.table.row f).mod : Nat) : Int) = some data ∧
      exec (.setField f v) s = .next t0 ∧ exec (.setField f v) (withDraw d0 t0) = .next t1 ∧
      exec (.setField f v) (withDraw d1 t1) = .next t2 ∧ exec (.setField f v) (withDraw d2 t2) = .next t3 ∧
      exec (.setField f v) (withDraw d3 t3) = .next t ∧
      t3.rdLatch = busReadData (withDraw d2 t2) ∧ t.rdLatch = t3.rdLatch ∧
      t.busLog = s.busLog ++
        [.write s.params.devAddr (s.params.table.row f).addr data,
          .setAddr s.params.devAddr s.params.table.second.addr, .read s.params.devAddr t3.rdLatch,
          .write s.params.devAddr s.params.table.second.addr (clearIntegrity s.params t3.rdLatch)] ∧
      t.phase = .idle ∧ t.seqStep = 0 ∧ t.rspValid = true ∧ t.rspData = 0 ∧ t.rspLog = s.rspLog ++ [0] ∧
      t.params = s.params ∧ t.faultCode = s.faultCode ∧ t.commands = s.commands ∧ t.inputs = s.inputs ∧
      t.busHung = s.busHung ∧
      (s.params.env = .passive → t2.ptr = s.params.table.second.addr ∧
        t3.rdLatch = Memory.readByte t2.chip s.params.table.second.addr)

/-- R153 and R157: GET_FIELD completes with its two transactions, and responds with the clamped, offset value of the
byte read, which RESULT_BITS hold. That `rd_latch` and `c_value` still hold a value after completion is the model's choice
(log entry 1: R21 and R25 leave them unspecified). -/
def Obligations.GetFieldCompletes : Prop :=
  ∀ (f : TimeField) (s : State) (d0 d1 : Draw),
    s.params.wf = true → s.phase = .idle → s.rspValid = false →
    ∃ t0 t1 t : State,
      exec (.getField f) s = .next t0 ∧ exec (.getField f) (withDraw d0 t0) = .next t1 ∧
      exec (.getField f) (withDraw d1 t1) = .next t ∧ t.rdLatch = busReadData (withDraw d1 t1) ∧
      t.busLog = s.busLog ++ [.setAddr s.params.devAddr (s.params.table.row f).addr,
        .read s.params.devAddr t.rdLatch] ∧
      t.rspData = clamp (decodeBCD (t.rdLatch &&& (s.params.table.row f).mask))
        (s.params.table.row f).min (s.params.table.row f).max + (s.params.table.row f).offset ∧
      t.phase = .idle ∧ t.seqStep = 0 ∧ t.rspValid = true ∧ t.rspLog = s.rspLog ++ [t.rspData] ∧
      t.params = s.params ∧ t.faultCode = s.faultCode ∧ t.cValue = s.cValue ∧ t.commands = s.commands ∧
      t.inputs = s.inputs ∧ t.busHung = s.busHung ∧
      (s.params.env = .passive →
        t.chip = s.chip ∧ t.rdLatch = Memory.readByte s.chip (s.params.table.row f).addr)

/-- R154 and R157: GET_FIELD_RAW completes with the same two transactions and responds with the byte read,
zero-extended, with no mask, decode, clamp or offset. (`rsp_data` has room for the byte in an accepted machine, log entry
4; else it holds the byte's low RESULT_BITS bits.) That `rd_latch` and `c_value` still hold a value after completion is the
model's choice (log entry 1: R21 and R25 leave them unspecified). -/
def Obligations.GetFieldRawCompletes : Prop :=
  ∀ (f : TimeField) (s : State) (d0 d1 : Draw), s.phase = .idle → s.rspValid = false →
    ∃ t0 t1 t : State,
      exec (.getFieldRaw f) s = .next t0 ∧ exec (.getFieldRaw f) (withDraw d0 t0) = .next t1 ∧
      exec (.getFieldRaw f) (withDraw d1 t1) = .next t ∧ t.rdLatch = busReadData (withDraw d1 t1) ∧
      t.busLog = s.busLog ++ [.setAddr s.params.devAddr (s.params.table.row f).addr,
        .read s.params.devAddr t.rdLatch] ∧
      t.rspData = t.rdLatch.toNat % 2 ^ s.params.resultBits ∧
      (8 ≤ s.params.resultBits → t.rspData = t.rdLatch.toNat) ∧
      t.phase = .idle ∧ t.seqStep = 0 ∧ t.rspValid = true ∧ t.rspLog = s.rspLog ++ [t.rspData] ∧
      t.params = s.params ∧ t.faultCode = s.faultCode ∧ t.cValue = s.cValue ∧ t.commands = s.commands ∧
      t.inputs = s.inputs ∧ t.busHung = s.busHung ∧
      (s.params.env = .passive →
        t.chip = s.chip ∧ t.rdLatch = Memory.readByte s.chip (s.params.table.row f).addr)

/-- R155 and R157: RESTART_INTEGRITY completes: it reads the Second register, clears the integrity bit and writes the
byte back, whatever that bit was, and responds 0. That `rd_latch` and `c_value` still hold a value after completion is the
model's choice (log entry 1: R21 and R25 leave them unspecified). -/
def Obligations.RestartIntegrityCompletes : Prop :=
  ∀ (s : State) (d0 d1 d2 : Draw), s.phase = .idle → s.rspValid = false →
    ∃ t0 t1 t2 t : State,
      exec .restartIntegrity s = .next t0 ∧ exec .restartIntegrity (withDraw d0 t0) = .next t1 ∧
      exec .restartIntegrity (withDraw d1 t1) = .next t2 ∧ exec .restartIntegrity (withDraw d2 t2) = .next t ∧
      t2.rdLatch = busReadData (withDraw d1 t1) ∧ t.rdLatch = t2.rdLatch ∧
      t.busLog = s.busLog ++
        [.setAddr s.params.devAddr s.params.table.second.addr, .read s.params.devAddr t2.rdLatch,
          .write s.params.devAddr s.params.table.second.addr (clearIntegrity s.params t2.rdLatch)] ∧
      t.phase = .idle ∧ t.seqStep = 0 ∧ t.rspValid = true ∧ t.rspData = 0 ∧ t.rspLog = s.rspLog ++ [0] ∧
      t.params = s.params ∧ t.faultCode = s.faultCode ∧ t.cValue = s.cValue ∧ t.commands = s.commands ∧
      t.inputs = s.inputs ∧ t.busHung = s.busHung ∧
      (s.params.env = .passive →
        t2.rdLatch = Memory.readByte s.chip s.params.table.second.addr ∧
        ∀ a, Memory.readByte t.chip a =
          if a = s.params.table.second.addr then clearIntegrity s.params t2.rdLatch
          else Memory.readByte s.chip a)

/-- R135: GET_FIELD's response is inside `MIN + OFFSET .. MAX + OFFSET` whatever byte the chip returns, in both
environments. -/
def Obligations.GetFieldResponseIsInRange : Prop :=
  ∀ (f : TimeField) (s : State), s.params.wf = true → s.phase = .busy → latchedCommand s = some (.getField f) →
    s.seqStep = 1 →
    ∃ t, exec (.getField f) s = .next t ∧ t.rspValid = true ∧
      (s.params.table.row f).min + (s.params.table.row f).offset ≤ t.rspData ∧
      t.rspData ≤ (s.params.table.row f).max + (s.params.table.row f).offset

/-- R125: GET_FIELD Second does not depend on the integrity flag: two runs that read bytes differing in that bit only
respond alike. -/
def Obligations.GetSecondDoesNotRevealIntegrityFlag : Prop :=
  ∀ s s' : State, s.params = s'.params → s.params.wf = true →
    s.phase = .busy → s'.phase = .busy → s.seqStep = 1 → s'.seqStep = 1 →
    latchedCommand s = some (.getField .second) → latchedCommand s' = some (.getField .second) →
    clearIntegrity s.params (busReadData s) = clearIntegrity s'.params (busReadData s') →
    ∃ t t', exec (.getField .second) s = .next t ∧ exec (.getField .second) s' = .next t' ∧
      t.rspData = t'.rspData

/-- R34: under FREE a BusRead returns any byte: for every byte there is a choice of the environment with which
GET_FIELD_RAW responds with it, whatever the chip's registers were last written with. -/
def Obligations.FreeReadReturnsAnyByte : Prop :=
  ∀ (f : TimeField) (s : State) (b : Byte), s.params.env = .free → 8 ≤ s.params.resultBits → s.phase = .busy → s.seqStep = 1 →
    latchedCommand s = some (.getFieldRaw f) →
    ∃ t, exec (.getFieldRaw f) (withDraw { s.draw with readByte := b } s) = .next t ∧ t.rspValid = true ∧
      t.rspData = b.toNat

/-- R30 and R34: under FREE no register of the chip is bound to what was written to it: for every register and every
byte there is a choice of the environment with which the register holds that byte after a BusWrite. That the chip's own
changes are a list drawn with the transaction is the model's form of them (log entry 8). -/
def Obligations.FreeChipMayHoldAnyByteAfterAWrite : Prop :=
  ∀ (s : State) (a d x b : Byte), s.params.env = .free →
    ∃ e : Draw, Memory.readByte (busWrite a d (withDraw e s)).chip x = b

/-- R33: the PASSIVE chip is a register file with one draw: a BusWrite stores its byte, and sets the integrity bit of
the Second register when it wrote another register and `flagDraw` is drawn; a BusSetAddr sets PTR; a BusRead returns
`CHIP[PTR]`; nothing else changes CHIP, and PTR is unspecified after a BusRead or BusWrite: every byte is possible. -/
def Obligations.PassiveChipIsARegisterFile : Prop :=
  ∀ (s : State), s.params.env = .passive →
    (∀ a d x : Byte, Memory.readByte (busWrite a d s).chip x =
      if x = a then d
      else if x = s.params.table.second.addr ∧ s.draw.flagDraw = true then
        Memory.readByte s.chip x ||| (1#8 <<< s.params.integrityBit.val)
      else Memory.readByte s.chip x) ∧
    (∀ a, (busSetAddr a s).ptr = a ∧ (busSetAddr a s).chip = s.chip) ∧
    (busRead s).rdLatch = Memory.readByte s.chip s.ptr ∧ (busRead s).chip = s.chip ∧
    ∀ b : Byte, (∃ e : Draw, (busRead (withDraw e s)).ptr = b) ∧ ∀ a d, ∃ e : Draw, (busWrite a d (withDraw e s)).ptr = b

/-! ### Frames -/

/-- GET_FIELD and GET_FIELD_RAW: what a step of them leaves unchanged. They store to no register of the chip under
PASSIVE; they never touch `c_value`, `fault_code`, the parameters, the port or the inputs (which only step takes from);
while BUSY they leave the command latches alone; `rd_latch` changes only at the read step, and the response port only at
completion, which is that same step. That the latches keep their values between commands is the model's choice (log entry
1). -/
def Obligations.ReadCommandsFrame : Prop :=
  ∀ (i : Instr) (f : TimeField) (s t : State), i = .getField f ∨ i = .getFieldRaw f → exec i s = .next t →
    (s.params.env = .passive → ∀ a, Memory.readByte t.chip a = Memory.readByte s.chip a) ∧
    t.cValue = s.cValue ∧ t.faultCode = s.faultCode ∧ t.params = s.params ∧ t.commands = s.commands ∧
    t.taken = s.taken ∧ t.acknowledged = s.acknowledged ∧ t.inputs = s.inputs ∧ t.draw = s.draw ∧ t.drawCount = s.drawCount ∧ t.busHung = s.busHung ∧
    (s.phase ≠ .idle → t.cOp = s.cOp ∧ t.cField = s.cField) ∧
    (¬(s.phase = .busy ∧ s.seqStep = 1) →
      t.rdLatch = s.rdLatch ∧ t.rspData = s.rspData ∧ t.rspValid = s.rspValid ∧ t.rspLog = s.rspLog) ∧
    (s.phase ≠ .busy → t.chip = s.chip ∧ t.ptr = s.ptr ∧ t.busLog = s.busLog)

/-- SET_FIELD and RESTART_INTEGRITY: what a step of them leaves unchanged in the unit. The parameters, the port and the
inputs never; `fault_code` only when a negative operand faults; the command latches while BUSY; `rd_latch` but at the
read step; the response port but at the last step; and the chip, its pointer and the bus when no step is taken. That the
latches keep their values between commands is the model's choice (log entry 1). -/
def Obligations.WriteCommandsUnitFrame : Prop :=
  ∀ (i : Instr) (s t : State), (∃ f v, i = .setField f v) ∨ i = .restartIntegrity → exec i s = .next t →
    t.params = s.params ∧ t.commands = s.commands ∧ t.inputs = s.inputs ∧ t.draw = s.draw ∧
    t.drawCount = s.drawCount ∧ t.busHung = s.busHung ∧ t.taken = s.taken ∧
    t.acknowledged = s.acknowledged ∧
    (i.wf s.params.valueBits = true → t.faultCode = s.faultCode) ∧
    (s.phase ≠ .idle → t.cOp = s.cOp ∧ t.cField = s.cField ∧ t.cValue = s.cValue ∧ t.faultCode = s.faultCode) ∧
    (i = .restartIntegrity → t.cValue = s.cValue) ∧
    (¬(s.phase = .busy ∧ s.seqStep = readStep i) → t.rdLatch = s.rdLatch) ∧
    (¬(s.phase = .busy ∧ s.seqStep = readStep i + 1) →
      t.rspData = s.rspData ∧ t.rspValid = s.rspValid ∧ t.rspLog = s.rspLog) ∧
    (s.phase ≠ .busy → t.chip = s.chip ∧ t.ptr = s.ptr ∧ t.busLog = s.busLog)

/-- SET_FIELD and RESTART_INTEGRITY under PASSIVE: every register of the chip is unchanged but the one byte stored at
the address the write multiplexer gives, which holds the byte it gives, and, at a field write with `flagDraw`, the
integrity bit of the Second register; the steps that write nothing leave every register as it was. -/
def Obligations.WriteCommandsChipFrame : Prop :=
  ∀ (i : Instr) (s t : State), s.params.env = .passive → s.phase = .busy → latchedCommand s = some i →
    exec i s = .next t →
    (∀ f v, i = .setField f v → s.seqStep = 0 →
      ∀ a d, writeMux s.params .field f v s.rdLatch = some (a, d) →
        Memory.readByte t.chip a = d ∧
          ∀ x, x ≠ a → Memory.readByte t.chip x =
            if x = s.params.table.second.addr ∧ s.draw.flagDraw = true then
              setIntegrity s.params (Memory.readByte s.chip x)
            else Memory.readByte s.chip x) ∧
    (((∃ f v, i = .setField f v ∧ s.seqStep = 3) ∨ (i = .restartIntegrity ∧ s.seqStep = 2)) →
      ∀ f v a d, writeMux s.params .integrity f v s.rdLatch = some (a, d) →
        Memory.readByte t.chip a = d ∧ ∀ x, x ≠ a → Memory.readByte t.chip x = Memory.readByte s.chip x) ∧
    (((∃ f v, i = .setField f v ∧ (s.seqStep = 1 ∨ s.seqStep = 2)) ∨
        (i = .restartIntegrity ∧ (s.seqStep = 0 ∨ s.seqStep = 1))) →
      ∀ x, Memory.readByte t.chip x = Memory.readByte s.chip x)

/-! ### The machine -/

/-- A step runs the decoded command: IDLE with no response pending and the command `c` on the port, the unit's move is
exec of what `c` decodes to, at the state in which the step's input is taken and `c` is off the port, one more command
taken (the events are log entry 6, the port log entry 11, the count log entry 13). -/
def Obligations.StepRunsTheCommandOnThePort : Prop :=
  ∀ (s : State) (c : Command) (cs : List Command) (i : Instr), s.params.wf = true →
    (nextInput s).event = .advance → s.phase = .idle → s.rspValid = false → s.commands = c :: cs →
    decode s.params.valueBits c = .ok i →
    step s = exec i { takeInput s with commands := cs, taken := s.taken + 1 }

/-- A step of a BUSY unit whose transaction completes is exec of the latched command, at the state in which the step's
input is taken (R22, R157). -/
def Obligations.StepRunsTheLatchedCommand : Prop :=
  ∀ (s : State) (i : Instr), s.params.wf = true → (nextInput s).event = .advance → s.phase = .busy →
    s.busHung = false → latchedCommand s = some i → step s = exec i (takeInput s)

/-- The invariant holds at reset. -/
def Obligations.ResetMeetsTheInvariant : Prop := Invariant State.reset

/-- Every step keeps the invariant: the table is accepted, the chip's list is canonical, IDLE and FAULT stand at step 0,
FAULT has a code, BUSY holds a well-formed command at a step of its row, the pointer is right at each BusRead and, under
PASSIVE, `rd_latch` holds the Second register at each integrity rewrite; and there are no more responses than commands
taken, the one in progress or at fault apart, and no more acknowledges than responses, the pending one apart. -/
def Obligations.EveryStepKeepsTheInvariant : Prop :=
  ∀ s t : State, Invariant s → step s = .next t → Invariant t

/-- R200: nothing the host can present and nothing the chip can hold stops the machine. From every state the invariant
admits, a step answers a next state, but for a host that reads `rsp_data` while `rsp_valid = 0`, which faults (R24;
log entry 12). -/
def Obligations.NoStepStopsTheMachine : Prop :=
  ∀ s : State, Invariant s →
    (∃ t, step s = .next t) ∨
      (step s = .fault .responseUndefined ∧ (nextInput s).event = .readResponse ∧ s.rspValid = false)

/-- R35 and R49: a step puts at most one transaction on the bus, after those before it, to the device `P_DEV_ADDR`, and
the register address it carries is one of the field table's. -/
def Obligations.AtMostOneTransactionPerStepAndOnlyToTheTable : Prop :=
  ∀ s t : State, step s = .next t →
    t.busLog = s.busLog ∨
      ∃ x : BusTxn, t.busLog = s.busLog ++ [x] ∧ x.device = s.params.devAddr ∧
        ∀ a, x.register = some a → tableAddr s.params a

/-- R22: while BUSY, `step` stands still or advances by 1, exactly when a transaction completes; only completion and
reset return it to 0, to IDLE; the command latches do not change (R23). A transaction that hangs does not complete: `step`
stands still although it may have reached the chip (log entry 10). -/
def Obligations.StepCounterOnlyAdvances : Prop :=
  ∀ s t : State, s.phase = .busy → step s = .next t →
    (t.phase = .busy ∧ t.cOp = s.cOp ∧ t.cField = s.cField ∧ t.cValue = s.cValue ∧ t.rspLog = s.rspLog ∧
      ((t.seqStep = s.seqStep ∧
          (t.busLog = s.busLog ∨
            ((nextInput s).event = .hang true ∧ t.busHung = true ∧ t.busLog.length = s.busLog.length + 1))) ∨
        (t.seqStep = s.seqStep + 1 ∧ t.busLog.length = s.busLog.length + 1))) ∨
    (t.phase = .idle ∧ t.seqStep = 0 ∧
      ((∃ landed, (nextInput s).event = .reset landed) ∨
        ((nextInput s).event = .advance ∧ t.rspValid = true ∧ t.rspLog.length = s.rspLog.length + 1 ∧
          t.busLog.length = s.busLog.length + 1)))

/-- R27: no step, reset among them, changes the field table or any other parameter (State carries them: log entry 4). -/
def Obligations.ParametersNeverChange : Prop :=
  ∀ s t : State, step s = .next t → t.params = s.params

/-- R156: the last three steps of SET_FIELD are the three steps of RESTART_INTEGRITY: from the same state, with the same
free values, they issue the same transaction and leave the same chip, pointer, `rd_latch` and response; and they are
always issued. That `rd_latch` holds the byte read after the last of them, in IDLE, is the model's choice (log entry 1). -/
def Obligations.SetFieldEndsInTheIntegrityRestart : Prop :=
  ∀ (f : TimeField) (v : Int) (s s' : State) (n : Nat), n ≤ 2 →
    s.phase = .busy → latchedCommand s = some (.setField f v) → s.seqStep = n + 1 →
    s' = { s with cOp := 0b11#2, cField := 0b000#3, seqStep := n } →
    ∃ t t', exec (.setField f v) s = .next t ∧ exec .restartIntegrity s' = .next t' ∧
      t.busLog = t'.busLog ∧ t.busLog.length = s.busLog.length + 1 ∧ t.chip = t'.chip ∧ t.ptr = t'.ptr ∧
      t.rdLatch = t'.rdLatch ∧ t.rspValid = t'.rspValid ∧ t.rspData = t'.rspData ∧ t.rspLog = t'.rspLog ∧
      t.phase = t'.phase

/-- Every accepted command completes, with exactly one response (R151), in as many steps as it has transactions left,
when the bus completes each of them and no reset intervenes (R244); with no input listed the model's default event is
that (log entry 6). Where it was the run's last command and none was lost before it, the acknowledge after it completes the
run (R161, log entry 13). -/
def Obligations.AcceptedCommandCompletesInItsStepCount : Prop :=
  ∀ (s : State) (i : Instr), Invariant s → s.phase = .busy → s.busHung = false → s.inputs = [] →
    latchedCommand s = some i →
    ∃ t, core.run (transactions i - s.seqStep) s = .next t ∧ t.phase = .idle ∧ t.seqStep = 0 ∧
      t.rspValid = true ∧ t.rspLog.length = s.rspLog.length + 1 ∧
      t.busLog.length = s.busLog.length + (transactions i - s.seqStep) ∧
      (s.commands = [] → lostCommands s = 0 →
        ∃ u, core.run (transactions i - s.seqStep + 1) s = .next u ∧ Completed u)

/-- R207: a transaction that never completes leaves the unit BUSY at that step: no fault, no response, no time-out, no
later step, whatever else happens, until reset. That such a transaction is a flag of State, and that the chip and the bus
log stay as the hang left them, is the model's choice (log entry 10). -/
def Obligations.HungBusLeavesTheUnitStuck : Prop :=
  ∀ s : State, Invariant s → s.phase = .busy → s.busHung = true → (∀ landed, (nextInput s).event ≠ .reset landed) →
    (nextInput s).event ≠ .readResponse →
    ∃ t, step s = .next t ∧ t.phase = .busy ∧ t.busHung = true ∧ t.seqStep = s.seqStep ∧
      t.busLog = s.busLog ∧ t.rspLog = s.rspLog ∧ t.rspValid = false ∧ t.faultCode = s.faultCode ∧ t.chip = s.chip

/-- R230 and R231: reset makes the unit IDLE at step 0 with no response and no fault code, whatever it was doing, gives
no response and keeps the parameters; and unless a transaction was outstanding that had reached the chip (R232), it
issues no transaction and changes no register of the chip. -/
def Obligations.ResetAbortsTheCommandAndSparesTheChip : Prop :=
  ∀ (s : State) (landed : Bool), s.params.wf = true → (nextInput s).event = .reset landed →
    ∃ t, step s = .next t ∧ t.phase = .idle ∧ t.seqStep = 0 ∧ t.rspValid = false ∧ t.faultCode = 0#2 ∧
      t.params = s.params ∧ t.rspLog = s.rspLog ∧
      ((landed = false ∨ s.phase ≠ .busy) → t.chip = s.chip ∧ t.ptr = s.ptr ∧ t.busLog = s.busLog)

/-- R232: a transaction outstanding at the reset that had reached the chip has exactly its effect on the chip and the
bus, and one that had not has none; the commands on the port stay. That the reset event says which is the model's form of
"both outcomes are admitted", and of one that was already hung the hang event has said it (log entry 10). -/
def Obligations.OutstandingTransactionLandsOrNotAtReset : Prop :=
  ∀ (s : State) (landed : Bool) (i : Instr) (u : State), s.params.wf = true →
    (nextInput s).event = .reset landed → s.phase = .busy → latchedCommand s = some i →
    exec i (takeInput s) = .next u →
    ∃ t, step s = .next t ∧ t.commands = s.commands ∧ t.busHung = false ∧
      (landed = true → s.busHung = false → t.chip = u.chip ∧ t.ptr = u.ptr ∧ t.busLog = u.busLog) ∧
      (landed = false ∨ s.busHung = true → t.chip = s.chip ∧ t.ptr = s.ptr ∧ t.busLog = s.busLog)

/-- R232: a SET_FIELD reset after its field write and before its integrity restart leaves the new field value in the
PASSIVE chip, with the integrity flag as the field write left it, and gives no response (scripted events: log entries 6 and 10). -/
def Obligations.AbortedSetFieldLeavesTheFieldWritten : Prop :=
  ∀ (f : TimeField) (v : Int) (s : State) (d e : Draw) (rest : List Input), Invariant s →
    s.params.env = .passive → s.phase = .busy → s.busHung = false → s.seqStep = 0 →
    latchedCommand s = some (.setField f v) → s.inputs = ⟨.advance, d⟩ :: ⟨.reset false, e⟩ :: rest →
    ∃ (t : State) (data : Byte), core.run 2 s = .next t ∧
      encodeBCD ((v.toNat % (s.params.table.row f).mod : Nat) : Int) = some data ∧
      Memory.readByte t.chip (s.params.table.row f).addr = data ∧
      (f ≠ .second → Memory.readByte t.chip s.params.table.second.addr =
        if d.flagDraw = true then setIntegrity s.params (Memory.readByte s.chip s.params.table.second.addr)
        else Memory.readByte s.chip s.params.table.second.addr) ∧
      t.phase = .idle ∧ t.rspValid = false ∧ t.rspLog = s.rspLog

/-- R24: acknowledge sets `rsp_valid` to 0 and touches nothing else of the unit or the chip (the run counts it, log entry
13); reading `rsp_data` changes nothing while `rsp_valid = 1`, and faults while `rsp_valid = 0`. That an acknowledge with
no response changes nothing is the model's choice (log entry 12), and that the latches keep their values between commands
is too (log entry 1). -/
def Obligations.ResponsePortAcknowledgeAndRead : Prop :=
  ∀ s : State, s.params.wf = true →
    ((nextInput s).event = .acknowledge → s.rspValid = true →
      step s = .next { takeInput s with rspValid := false, acknowledged := s.acknowledged + 1 }) ∧
    ((nextInput s).event = .acknowledge → s.rspValid = false → step s = .next (takeInput s)) ∧
    ((nextInput s).event = .readResponse → s.rspValid = true → step s = .next (takeInput s)) ∧
    ((nextInput s).event = .readResponse → s.rspValid = false → step s = .fault .responseUndefined)

/-- A faulting command leaves the port as an accepted one does (DEDUCED from V10, log entry 11), and the whole state
after it: FAULT and the code, one more command taken (log entry 13), all else as it was. -/
def Obligations.FaultingCommandLeavesThePort : Prop :=
  ∀ (s : State) (c : Command) (cs : List Command) (cause : FaultCause), s.params.wf = true →
    (nextInput s).event = .advance → s.phase = .idle → s.rspValid = false → s.commands = c :: cs →
    decode s.params.valueBits c = .error cause →
    step s =
      .next { takeInput s with
        commands := cs, taken := s.taken + 1, phase := .fault, faultCode := faultCodeOf cause }

/-- R60 and R243: the host may present one more command at any time, which only lengthens the list on the port; a
transaction may take any number of steps, and outside BUSY there is none that could hang. These events are the model's form
of the host and the bus (log entries 10 and 11). -/
def Obligations.HostPresentsAndBusWaits : Prop :=
  ∀ s : State, s.params.wf = true →
    (∀ c, (nextInput s).event = .present c →
      step s = .next { takeInput s with commands := s.commands ++ [c] }) ∧
    ((nextInput s).event = .stall → step s = .next (takeInput s)) ∧
    ∀ landed, (nextInput s).event = .hang landed → s.phase ≠ .busy → step s = .next (takeInput s)

/-! ### Whole commands under PASSIVE -/

/-- R158 and R156: under PASSIVE, when SET_FIELD or RESTART_INTEGRITY completes, the integrity flag of the Second
register is 0, whatever the free values of its transactions were. -/
def Obligations.IntegrityFlagIsClearAfterEveryWriteCommand : Prop :=
  ∀ (s : State) (c : Command) (cs : List Command) (i : Instr) (d : Draw) (ds : List Draw) (rest : List Input),
    Invariant s → s.params.env = .passive → s.phase = .idle → s.rspValid = false → s.commands = c :: cs →
    decode s.params.valueBits c = .ok i → (∃ f v, i = .setField f v) ∨ i = .restartIntegrity → ds.length = transactions i →
    s.inputs = advanceWith d :: ds.map advanceWith ++ rest →
    ∃ t, core.run (1 + transactions i) s = .next t ∧ t.phase = .idle ∧ t.rspValid = true ∧
      t.commands = cs ∧ t.inputs = rest ∧
      integrityFlag t.params (Memory.readByte t.chip t.params.table.second.addr) = false

/-- R158: under PASSIVE the integrity flag, once 0, becomes 1 in a step only by a BusWrite to a register other than
Second with `flagDraw` drawn. -/
def Obligations.IntegrityFlagIsSetOnlyByAFlagDraw : Prop :=
  ∀ s t : State, Invariant s → s.params.env = .passive → step s = .next t →
    integrityFlag s.params (Memory.readByte s.chip s.params.table.second.addr) = false →
    integrityFlag s.params (Memory.readByte t.chip s.params.table.second.addr) = true →
    (nextInput s).draw.flagDraw = true ∧
      ∃ a d, a ≠ s.params.table.second.addr ∧ t.busLog = s.busLog ++ [.write s.params.devAddr a d]

/-- R136: under PASSIVE, from a SET_FIELD f, v that completed in `t`, a later GET_FIELD f, in any ready state `u` in
which the field's data bits are still those of `t`, responds
`clamp(v mod MOD, MIN, MAX) + OFFSET`; with the default table, that is `v mod MOD + OFFSET` exactly when
`v mod MOD >= MIN`. -/
def Obligations.GetFieldReadsBackWhatSetFieldWrote : Prop :=
  ∀ (f : TimeField) (v : Int) (s : State) (d d0 d1 d2 d3 : Draw) (c : Command) (cs : List Command)
    (rest : List Input), Invariant s → s.params.env = .passive → s.phase = .idle → s.rspValid = false →
    s.commands = c :: cs → decode s.params.valueBits c = .ok (.setField f v) →
    s.inputs = [d, d0, d1, d2, d3].map advanceWith ++ rest →
    ∃ t, core.run 5 s = .next t ∧ t.rspValid = true ∧
      ∀ (u : State) (e e0 e1 : Draw) (c' : Command) (cs' : List Command) (rest' : List Input),
        Invariant u → u.params = s.params → u.phase = .idle → u.rspValid = false → u.commands = c' :: cs' →
        decode u.params.valueBits c' = .ok (.getField f) → u.inputs = [e, e0, e1].map advanceWith ++ rest' →
        Memory.readByte u.chip (s.params.table.row f).addr &&& (s.params.table.row f).mask =
          Memory.readByte t.chip (s.params.table.row f).addr &&& (s.params.table.row f).mask →
        ∃ w, core.run 3 u = .next w ∧ w.rspValid = true ∧
          w.rspData =
            clamp (v.toNat % (s.params.table.row f).mod) (s.params.table.row f).min (s.params.table.row f).max +
              (s.params.table.row f).offset ∧
          (s.params.table = defaultTable →
            (w.rspData = v.toNat % (s.params.table.row f).mod + (s.params.table.row f).offset ↔
              (s.params.table.row f).min ≤ v.toNat % (s.params.table.row f).mod))

/-- R162: under PASSIVE, `SET_FIELD f, v` and `SET_FIELD f, v mod MOD` issue the same transactions with the same data and
leave the same chip. -/
def Obligations.SetFieldOfRemainderIsTheSameRun : Prop :=
  ∀ (f : TimeField) (v v' : Int) (s s' : State) (d d0 d1 d2 d3 : Draw) (cs : List Command)
    (rest : List Input), Invariant s → s.params.env = .passive → s.phase = .idle → s.rspValid = false →
    0 ≤ v → v < (2 ^ (s.params.valueBits - 1) : Nat) → v' = (v.toNat % (s.params.table.row f).mod : Nat) →
    s.commands = encode s.params.valueBits (.setField f v) :: cs → s.inputs = [d, d0, d1, d2, d3].map advanceWith ++ rest →
    s' = { s with commands := encode s.params.valueBits (.setField f v') :: cs } →
    ∃ t t', core.run 5 s = .next t ∧ core.run 5 s' = .next t' ∧ t.busLog = t'.busLog ∧ t.chip = t'.chip ∧
      observation t = observation t'

/-! ### What comes to nothing: an operand no word spells, a hung transaction, a lost command -/

/-- A SET_FIELD whose operand no word on the port spells is refused by name: "`refuse`: not expressible on the port" (U17).
That exec is where it is refused is the model's own choice (DESIGN CHOICE, log entry 14). -/
def Obligations.OperandThePortCannotCarryIsRefused : Prop :=
  ∀ (f : TimeField) (v : Int) (s : State), (2 ^ (s.params.valueBits - 1) : Nat) ≤ v → s.phase = .idle →
    s.rspValid = false → exec (.setField f v) s = .refused .operandNotExpressible

/-- Whether a transaction that never completes has nevertheless reached the chip is left open by R45, R207 and D14; the
hang event says which (DESIGN CHOICE, log entry 10). One that has has exactly its effect on the chip and the bus, one that
has not has none, and the unit is as it was, BUSY at that step. -/
def Obligations.HungTransactionReachedTheChipOrNot : Prop :=
  ∀ (s : State) (landed : Bool) (i : Instr) (u : State), s.params.wf = true →
    (nextInput s).event = .hang landed → s.phase = .busy → s.busHung = false → latchedCommand s = some i →
    exec i (takeInput s) = .next u →
    (landed = true → step s =
      .next { takeInput s with chip := u.chip, ptr := u.ptr, busLog := u.busLog, busHung := true }) ∧
    (landed = false → step s = .next { takeInput s with busHung := true })

/-- R161: a command that faulted, that a reset aborted, or whose response a reset took back before it was acknowledged
keeps a run from case 1, after the reset as before it. Each such event, and no other step, adds one lost command, no step
takes one away, and a run with a lost command is never Completed. That the run goes on through a reset is the model's
choice (log entry 13). -/
def Obligations.RunThatLostACommandIsNeverCompleted : Prop :=
  ∀ (s t : State) (loses : Prop), Invariant s → step s = .next t →
    (loses ↔ ((s.phase = .busy ∨ s.rspValid = true) ∧ ∃ landed, (nextInput s).event = .reset landed) ∨
      (s.phase ≠ .fault ∧ t.phase = .fault)) →
    (loses → lostCommands t = lostCommands s + 1) ∧ (¬loses → lostCommands t = lostCommands s) ∧
    (0 < lostCommands t → ¬Completed t)
end

