-- ==== Sys2Proof/Laws/Codec.lean ====
section
/-! SUPPORT. The codec on its domain, and what the checks of R122 say of a row of an accepted table. -/

namespace Sys2Proof.Machine

/-- The encoder on its domain (R101). -/
theorem encodeBCD_of_le (w : Nat) (h : w ≤ 99) :
    encodeBCD (w : Int) = some (BitVec.ofNat 8 (w / 10 * 16 + w % 10)) := by
  unfold encodeBCD
  rw [if_pos (by omega)]
  simp

/-- The encoder outside its domain (R102). -/
theorem encodeBCD_of_not (w : Int) (h : ¬(0 ≤ w ∧ w ≤ 99)) : encodeBCD w = none := if_neg h

/-- The encoder's byte as a number: it never wraps. -/
theorem encodeBCD_toNat (w : Nat) (h : w ≤ 99) :
    (BitVec.ofNat 8 (w / 10 * 16 + w % 10)).toNat = w / 10 * 16 + w % 10 := by
  rw [BitVec.toNat_ofNat]
  exact Nat.mod_eq_of_lt (by omega)

/-- The nibbles as numbers. -/
theorem highNibble_eq (b : Byte) : highNibble b = b.toNat / 16 := by
  simp [highNibble, Nat.shiftRight_eq_div_pow]

theorem lowNibble_eq (b : Byte) : lowNibble b = b.toNat % 16 := by
  have : b.toNat &&& 15 = b.toNat % 2 ^ 4 := Nat.and_two_pow_sub_one_eq_mod b.toNat 4
  simpa [lowNibble] using this

theorem decodeBCD_eq (b : Byte) : decodeBCD b = b.toNat / 16 * 10 + b.toNat % 16 := by
  rw [decodeBCD, highNibble_eq, lowNibble_eq]

end Sys2Proof.Machine

namespace Sys2Proof

open Machine

/-- Every field is in the list of all fields. -/
theorem TimeField.mem_all (f : TimeField) : f ∈ TimeField.all := by
  cases f <;> decide

/-- The tag of a field names it (R63). -/
@[simp] theorem TimeField.ofTag_tag (f : TimeField) : TimeField.ofTag f.tag = some f := by
  cases f <;> decide

/-- An accepted table's rows pass WF1, WF2, WF3 and WF6. -/
theorem Params.wf_row {p : Params} (h : p.wf = true) (f : TimeField) :
    checkRow p.resultBits (p.table.row f) = true := by
  simp only [Params.wf, Params.tableOk, Bool.and_eq_true] at h
  exact List.all_eq_true.mp h.1.1.1 f (TimeField.mem_all f)

/-- The ports of accepted parameters: OPND has a sign bit, and `rsp_data` holds a byte. -/
theorem Params.wf_ports {p : Params} (h : p.wf = true) : 1 ≤ p.valueBits ∧ 8 ≤ p.resultBits := by
  simp only [Params.wf, Params.portsOk, Bool.and_eq_true, decide_eq_true_eq] at h
  exact h.2

theorem Params.wf_modulus {p : Params} (h : p.wf = true) (f : TimeField) :
    1 ≤ (p.table.row f).mod ∧ (p.table.row f).mod ≤ 100 := by
  have := Params.wf_row h f
  simp only [checkRow, checkModulus, Bool.and_eq_true, decide_eq_true_eq] at this
  exact this.1.1.2

theorem Params.wf_range {p : Params} (h : p.wf = true) (f : TimeField) :
    (p.table.row f).min ≤ (p.table.row f).max := by
  have := Params.wf_row h f
  simp only [checkRow, checkRange, Bool.and_eq_true, decide_eq_true_eq] at this
  exact this.1.1.1

theorem Params.wf_result {p : Params} (h : p.wf = true) (f : TimeField) :
    (p.table.row f).max + (p.table.row f).offset < 2 ^ p.resultBits := by
  have := Params.wf_row h f
  simp only [checkRow, checkResult, Bool.and_eq_true, decide_eq_true_eq] at this
  exact this.2

/-- WF3 of one row, for one value. -/
theorem Params.wf_writeByte {p : Params} (h : p.wf = true) (f : TimeField) (w : Nat)
    (hw : w < (p.table.row f).mod) :
    BitVec.ofNat 8 (w / 10 * 16 + w % 10) &&& ~~~(p.table.row f).mask = 0#8 := by
  have hrow := Params.wf_row h f
  have hmod := Params.wf_modulus h f
  simp only [checkRow, Bool.and_eq_true] at hrow
  have := List.all_eq_true.mp hrow.1.2 w (List.mem_range.mpr hw)
  rw [encodeBCD_of_le w (by omega)] at this
  simpa using this

theorem Params.wf_integrityMask {p : Params} (h : p.wf = true) :
    p.table.second.mask.getLsbD p.integrityBit.val = false := by
  simp only [Params.wf, Params.tableOk, checkIntegrityMask, Bool.and_eq_true] at h
  simpa using h.1.1.2

theorem Params.wf_addresses {p : Params} (h : p.wf = true) :
    (TimeField.all.map fun f => (p.table.row f).addr).Nodup := by
  simp only [Params.wf, Params.tableOk, checkAddresses, Bool.and_eq_true, decide_eq_true_eq] at h
  exact h.1.2

end Sys2Proof
end

