-- ==== Sys2Proof/Laws/Decode.lean ====
section
/-! SUPPORT. The fields of a header, and what the decoder does with each kind of word. -/

namespace Sys2Proof

/-! ### The fields of a header (R60) -/

@[simp] theorem rsv_headerOf (op : BitVec 2) (tag : BitVec 3) (o : Nat) :
    Command.rsv ⟨headerOf op tag, o⟩ = 0#3 := by
  have : ∀ (op : BitVec 2) (tag : BitVec 3), (headerOf op tag).extractLsb' 5 3 = 0#3 := by decide
  exact this op tag

@[simp] theorem op_headerOf (op : BitVec 2) (tag : BitVec 3) (o : Nat) :
    Command.op ⟨headerOf op tag, o⟩ = op := by
  have : ∀ (op : BitVec 2) (tag : BitVec 3), (headerOf op tag).extractLsb' 3 2 = op := by decide
  exact this op tag

@[simp] theorem tag_headerOf (op : BitVec 2) (tag : BitVec 3) (o : Nat) :
    Command.tag ⟨headerOf op tag, o⟩ = tag := by
  have : ∀ (op : BitVec 2) (tag : BitVec 3), (headerOf op tag).extractLsb' 0 3 = tag := by decide
  exact this op tag

/-- A header with no reserved bit set is made of its two fields. -/
theorem headerOf_op_tag {c : Command} (h : c.rsv = 0#3) : headerOf c.op c.tag = c.cmd := by
  have : ∀ b : Byte, b.extractLsb' 5 3 = 0#3 → headerOf (b.extractLsb' 3 2) (b.extractLsb' 0 3) = b := by
    decide +kernel
  exact this c.cmd h

/-- The tag of the field a tag names is that tag (R63). -/
theorem TimeField.tag_of_ofTag {t : BitVec 3} {f : TimeField} (h : TimeField.ofTag t = some f) : f.tag = t := by
  have : ∀ t : BitVec 3, ∀ f ∈ TimeField.ofTag t, f.tag = t := by decide
  exact this t f h

/-- Tag 7, and only it, names no field (R63). -/
theorem TimeField.ofTag_eq_none {t : BitVec 3} : TimeField.ofTag t = none ↔ t = 7#3 := by
  have : ∀ t : BitVec 3, TimeField.ofTag t = none ↔ t = 7#3 := by decide
  exact this t

/-! ### The operand (R64) -/

/-- A word with top bit 0 is its own value. -/
theorem operandValue_of_lt {n o : Nat} (h : operandBits n o < 2 ^ (n - 1)) : operandValue n o = operandBits n o :=
  if_neg (by omega)

/-- An operand is negative when its top bit is 1. -/
theorem operandValue_neg {n o : Nat} : operandValue n o < 0 ↔ 2 ^ (n - 1) ≤ operandBits n o := by
  have hlt : operandBits n o < 2 ^ n := Nat.mod_lt _ (Nat.two_pow_pos n)
  unfold operandValue
  split <;> omega

/-- A word that is not negative spells its bits, below `2^(VALUE_BITS-1)`. -/
theorem operandValue_of_nonneg {n o : Nat} (h : ¬operandValue n o < 0) :
    operandValue n o = operandBits n o ∧ operandBits n o < 2 ^ (n - 1) := by
  have hlt : operandBits n o < 2 ^ (n - 1) := Nat.not_le.mp (mt operandValue_neg.mpr h)
  exact ⟨operandValue_of_lt hlt, hlt⟩

/-- A number below `2^(VALUE_BITS-1)` is spelled by itself. -/
theorem operandValue_natCast {n k : Nat} (h : k < 2 ^ (n - 1)) : operandValue n k = k := by
  have hle : 2 ^ (n - 1) ≤ 2 ^ n := Nat.pow_le_pow_right (by omega) (Nat.sub_le n 1)
  have hb : operandBits n k = k := Nat.mod_eq_of_lt (by omega)
  rw [operandValue_of_lt (by rwa [hb]), hb]

/-- Two's complement on a port of at least one bit: every integer the port can carry comes back (R64, R74). -/
theorem operandValue_operandWord {n : Nat} {v : Int} (hn : 1 ≤ n) (h1 : -((2 ^ (n - 1) : Nat) : Int) ≤ v)
    (h2 : v < (2 ^ (n - 1) : Nat)) : operandValue n (operandWord n v) = v := by
  have hpow : 2 ^ n = 2 * 2 ^ (n - 1) := by rw [← Nat.pow_succ']; congr 1; omega
  have hpos : 0 < 2 ^ (n - 1) := Nat.two_pow_pos _
  have hb : operandBits n (operandWord n v) = (v % (2 ^ n : Nat)).toNat := by
    have h0 := Int.emod_nonneg v (b := ((2 ^ n : Nat) : Int)) (by omega)
    have h1 := Int.emod_lt_of_pos v (b := ((2 ^ n : Nat) : Int)) (by omega)
    exact Nat.mod_eq_of_lt ((Int.toNat_lt h0).mpr h1)
  rw [operandValue, hb]
  rcases Int.lt_or_le v 0 with hv | hv
  · have : v % (2 ^ n : Nat) = v + (2 ^ n : Nat) := by
      rw [← Int.add_emod_right]; exact Int.emod_eq_of_lt (by omega) (by omega)
    rw [this, if_pos (by omega)]; omega
  · rw [Int.emod_eq_of_lt hv (by omega), if_neg (by omega)]; omega

/-- A word that a well-formed SET_FIELD is encoded in spells its operand. -/
theorem operandWord_of_nonneg {n : Nat} {v : Int} (h1 : 0 ≤ v) (h2 : v < (2 ^ (n - 1) : Nat)) :
    operandWord n v = v.toNat := by
  have hle : 2 ^ (n - 1) ≤ 2 ^ n := Nat.pow_le_pow_right (by omega) (Nat.sub_le n 1)
  rw [operandWord, Int.emod_eq_of_lt h1 (by omega)]

/-! ### The decoder on a header with no reserved bit (R65) -/

theorem decode_restartIntegrity (n o : Nat) : decode n ⟨headerOf 0b11#2 0b000#3, o⟩ = .ok .restartIntegrity := by
  simp [decode]

theorem decode_setField (n : Nat) (f : TimeField) {o : Nat} (h : ¬operandValue n o < 0) :
    decode n ⟨headerOf 0b00#2 f.tag, o⟩ = .ok (.setField f (operandValue n o)) := by
  simp [decode, h]

theorem decode_setField_negative (n : Nat) (f : TimeField) {o : Nat} (h : operandValue n o < 0) :
    decode n ⟨headerOf 0b00#2 f.tag, o⟩ = .error .negativeValue := by
  simp [decode, h]

/-- A number below `2^(VALUE_BITS-1)` in OPND, or in `c_value`, decodes to SET_FIELD with that operand. -/
theorem decode_setField_natCast (n : Nat) (f : TimeField) {k : Nat} (h : k < 2 ^ (n - 1)) :
    decode n ⟨headerOf 0b00#2 f.tag, k⟩ = .ok (.setField f k) := by
  have hv := operandValue_natCast h
  rw [decode_setField n f (by omega), hv]

theorem decode_getField (n : Nat) (f : TimeField) (o : Nat) :
    decode n ⟨headerOf 0b01#2 f.tag, o⟩ = .ok (.getField f) := by
  simp [decode]

theorem decode_getFieldRaw (n : Nat) (f : TimeField) (o : Nat) :
    decode n ⟨headerOf 0b10#2 f.tag, o⟩ = .ok (.getFieldRaw f) := by
  simp [decode]

/-- A well-formed SET_FIELD has an operand in `0 .. 2^(VALUE_BITS-1) - 1` (R21, R64). -/
theorem Instr.wf_setField {n : Nat} {f : TimeField} {v : Int} :
    (Instr.setField f v).wf n = true ↔ 0 ≤ v ∧ v < (2 ^ (n - 1) : Nat) := by
  simp [Instr.wf]

/-- Everything the decoder can take: which header and operand spell which command. -/
theorem decode_ok_cases {n : Nat} {c : Command} {i : Instr} (h : decode n c = .ok i) :
    (∃ f, i = .setField f (operandValue n c.opnd) ∧ ¬operandValue n c.opnd < 0 ∧ c.cmd = headerOf 0b00#2 f.tag) ∨
      (∃ f, i = .getField f ∧ c.cmd = headerOf 0b01#2 f.tag) ∨
      (∃ f, i = .getFieldRaw f ∧ c.cmd = headerOf 0b10#2 f.tag) ∨
      (i = .restartIntegrity ∧ c.cmd = headerOf 0b11#2 0b000#3) := by
  have hops : ∀ o : BitVec 2, o ≠ 3#2 → o ≠ 0#2 → o ≠ 1#2 → o = 2#2 := by decide
  unfold decode at h
  split at h
  · cases h
  · rename_i hr
    have hr := headerOf_op_tag (not_not.mp hr)
    split at h
    · rename_i ho
      split at h
      · cases h
      · rename_i ht
        obtain rfl := Except.ok.inj h
        exact .inr (.inr (.inr ⟨rfl, by rw [← hr, ho, not_not.mp ht]⟩))
    · rename_i h3
      split at h
      · cases h
      · rename_i f hf
        have ht := TimeField.tag_of_ofTag hf
        split at h
        · rename_i h0
          split at h
          · cases h
          · rename_i hn
            obtain rfl := Except.ok.inj h
            exact .inl ⟨f, rfl, hn, by rw [← hr, h0, ht]⟩
        · rename_i h0
          split at h
          · rename_i h1
            obtain rfl := Except.ok.inj h
            exact .inr (.inl ⟨f, rfl, by rw [← hr, h1, ht]⟩)
          · rename_i h1
            obtain rfl := Except.ok.inj h
            exact .inr (.inr (.inl ⟨f, rfl, by rw [← hr, hops _ h3 h0 h1, ht]⟩))

/-- What the decoder takes is well formed (R64, R200). -/
theorem wf_of_decode {n : Nat} {c : Command} {i : Instr} (h : decode n c = .ok i) : i.wf n = true := by
  rcases decode_ok_cases h with ⟨f, rfl, hn, -⟩ | ⟨f, rfl, -⟩ | ⟨f, rfl, -⟩ | ⟨rfl, -⟩
  · obtain ⟨he, hlt⟩ := operandValue_of_nonneg hn
    exact Instr.wf_setField.mpr ⟨by omega, by omega⟩
  · rfl
  · rfl
  · rfl

end Sys2Proof
end

