-- ==== Sys2Proof/Laws/Memory.lean ====
section
/-! SUPPORT. The laws of the chip's register list: reading after writing, and that every operation keeps the canonical
form. -/

namespace Sys2Proof.Machine

theorem Memory.lookup_write_same (m : Memory) (k : Nat) (d : Byte) :
    Memory.lookup (Memory.write m k d) k = some d := by
  induction m with
  | nil => simp [Memory.write, Memory.lookup]
  | cons c m ih =>
    obtain ⟨a, b⟩ := c
    by_cases hlt : k < a
    · simp [Memory.write, hlt, Memory.lookup]
    · by_cases heq : k = a
      · simp [Memory.write, heq, Memory.lookup]
      · simp [Memory.write, hlt, heq, Memory.lookup, ih]

theorem Memory.lookup_write_other (m : Memory) (k j : Nat) (d : Byte) (h : j ≠ k) :
    Memory.lookup (Memory.write m k d) j = Memory.lookup m j := by
  induction m with
  | nil => simp [Memory.write, Memory.lookup, h]
  | cons c m ih =>
    obtain ⟨a, b⟩ := c
    by_cases hlt : k < a
    · simp [Memory.write, hlt, Memory.lookup, h]
    · by_cases heq : k = a
      · subst heq; simp [Memory.write, Memory.lookup, h]
      · simp [Memory.write, hlt, heq, Memory.lookup, ih]

/-- A write lists its address and no other new one. -/
theorem Memory.mem_write (m : Memory) (k : Nat) (d : Byte) (c : Host.Cell) (h : c ∈ Memory.write m k d) :
    c = (k, d) ∨ c ∈ m := by
  induction m with
  | nil => simpa [Memory.write] using h
  | cons e m ih =>
    obtain ⟨a, b⟩ := e
    by_cases hlt : k < a
    · simpa [Memory.write, hlt] using h
    · by_cases heq : k = a
      · simp only [Memory.write, heq, lt_irrefl, if_true, if_false, List.mem_cons] at h
        rcases h with h | h
        · exact .inl (heq ▸ h)
        · exact .inr (List.mem_cons_of_mem _ h)
      · simp only [Memory.write, hlt, heq, if_false, List.mem_cons] at h
        rcases h with h | h
        · exact .inr (h ▸ List.mem_cons_self)
        · rcases ih h with h | h
          · exact .inl h
          · exact .inr (List.mem_cons_of_mem _ h)

/-- A write keeps the canonical form. -/
theorem Memory.write_wf (m : Memory) (k : Nat) (d : Byte) (hm : Memory.wf m) (hk : k < 256) :
    Memory.wf (Memory.write m k d) := by
  refine ⟨?_, fun c hc => ?_⟩
  · have hp := hm.1
    clear hm
    induction m with
    | nil => simp [Memory.write]
    | cons e m ih =>
      obtain ⟨a, b⟩ := e
      rw [List.map_cons, List.pairwise_cons] at hp
      by_cases hlt : k < a
      · have hall : ∀ x ∈ m.map Prod.fst, k < x := fun x hx => hlt.trans (hp.1 x hx)
        simp only [Memory.write, hlt, if_true, List.map_cons, List.pairwise_cons]
        refine ⟨fun x hx => ?_, hp.1, hp.2⟩
        rcases List.mem_cons.mp hx with h | h
        · exact h ▸ hlt
        · exact hall x h
      · by_cases heq : k = a
        · subst heq
          simpa [Memory.write, List.pairwise_cons] using hp
        · simp only [Memory.write, hlt, heq, if_false, List.map_cons, List.pairwise_cons]
          refine ⟨fun x hx => ?_, ih hp.2⟩
          obtain ⟨c, hc, rfl⟩ := List.mem_map.mp hx
          rcases Memory.mem_write m k d c hc with h | h
          · subst h; simp only; omega
          · exact hp.1 _ (List.mem_map_of_mem h)
  · rcases Memory.mem_write m k d c hc with h | h
    · exact h ▸ hk
    · exact hm.2 c h

theorem Memory.writeByte_wf (m : Memory) (a d : Byte) (hm : Memory.wf m) : Memory.wf (Memory.writeByte m a d) :=
  Memory.write_wf m a.toNat d hm a.isLt

/-- The chip's own changes keep the canonical form. -/
theorem Memory.drift_wf (cs : List (Byte × Byte)) (m : Memory) (hm : Memory.wf m) :
    Memory.wf (Memory.drift cs m) := by
  induction cs generalizing m with
  | nil => exact hm
  | cons c cs ih => exact ih _ (Memory.writeByte_wf m c.1 c.2 hm)

@[simp] theorem Memory.readByte_writeByte_same (m : Memory) (a d : Byte) :
    Memory.readByte (Memory.writeByte m a d) a = d := by
  simp [Memory.readByte, Memory.writeByte, Memory.lookup_write_same]

theorem Memory.readByte_writeByte_other (m : Memory) (a x d : Byte) (h : x ≠ a) :
    Memory.readByte (Memory.writeByte m a d) x = Memory.readByte m x := by
  have : x.toNat ≠ a.toNat := fun e => h (BitVec.eq_of_toNat_eq e)
  simp [Memory.readByte, Memory.writeByte, Memory.lookup_write_other _ _ _ _ this]

theorem settleChip_wf (s : State) (m : Memory) (hm : Memory.wf m) : Memory.wf (settleChip s m) := by
  unfold settleChip
  split
  · exact Memory.drift_wf _ m hm
  · exact hm

theorem flagAfterWrite_wf (s : State) (a : Byte) (m : Memory) (hm : Memory.wf m) :
    Memory.wf (flagAfterWrite s a m) := by
  unfold flagAfterWrite
  split
  · exact Memory.writeByte_wf _ _ _ hm
  · exact hm

/-- The three bus primitives keep the canonical form. -/
theorem busWrite_chip_wf (a d : Byte) (s : State) (h : Memory.wf s.chip) : Memory.wf (busWrite a d s).chip :=
  settleChip_wf _ _ (flagAfterWrite_wf _ _ _ (Memory.writeByte_wf _ _ _ h))

theorem busSetAddr_chip_wf (a : Byte) (s : State) (h : Memory.wf s.chip) : Memory.wf (busSetAddr a s).chip :=
  settleChip_wf _ _ h

theorem busRead_chip_wf (s : State) (h : Memory.wf s.chip) : Memory.wf (busRead s).chip :=
  settleChip_wf _ _ h

end Sys2Proof.Machine
end

