-- ==== Sys2Proof/Laws/State.lean ====
section
/-! SUPPORT. What each update of the state does to each field: one lemma per field per update, so that no proof unfolds
a record update. -/

namespace Sys2Proof.Machine

/-! ### advanceStep -/

@[simp] theorem advanceStep_phase (s : State) : (advanceStep s).phase = s.phase := rfl
@[simp] theorem advanceStep_seqStep (s : State) : (advanceStep s).seqStep = s.seqStep + 1 := rfl
@[simp] theorem advanceStep_cOp (s : State) : (advanceStep s).cOp = s.cOp := rfl
@[simp] theorem advanceStep_cField (s : State) : (advanceStep s).cField = s.cField := rfl
@[simp] theorem advanceStep_cValue (s : State) : (advanceStep s).cValue = s.cValue := rfl
@[simp] theorem advanceStep_rdLatch (s : State) : (advanceStep s).rdLatch = s.rdLatch := rfl
@[simp] theorem advanceStep_rspValid (s : State) : (advanceStep s).rspValid = s.rspValid := rfl
@[simp] theorem advanceStep_rspData (s : State) : (advanceStep s).rspData = s.rspData := rfl
@[simp] theorem advanceStep_faultCode (s : State) : (advanceStep s).faultCode = s.faultCode := rfl
@[simp] theorem advanceStep_params (s : State) : (advanceStep s).params = s.params := rfl
@[simp] theorem advanceStep_chip (s : State) : (advanceStep s).chip = s.chip := rfl
@[simp] theorem advanceStep_ptr (s : State) : (advanceStep s).ptr = s.ptr := rfl
@[simp] theorem advanceStep_busHung (s : State) : (advanceStep s).busHung = s.busHung := rfl
@[simp] theorem advanceStep_commands (s : State) : (advanceStep s).commands = s.commands := rfl
@[simp] theorem advanceStep_inputs (s : State) : (advanceStep s).inputs = s.inputs := rfl
@[simp] theorem advanceStep_draw (s : State) : (advanceStep s).draw = s.draw := rfl
@[simp] theorem advanceStep_drawCount (s : State) : (advanceStep s).drawCount = s.drawCount := rfl
@[simp] theorem advanceStep_busLog (s : State) : (advanceStep s).busLog = s.busLog := rfl
@[simp] theorem advanceStep_rspLog (s : State) : (advanceStep s).rspLog = s.rspLog := rfl
@[simp] theorem advanceStep_taken (s : State) : (advanceStep s).taken = s.taken := rfl
@[simp] theorem advanceStep_acknowledged (s : State) : (advanceStep s).acknowledged = s.acknowledged := rfl

/-! ### busWrite -/

@[simp] theorem busWrite_phase (a d : Byte) (s : State) : (busWrite a d s).phase = s.phase := rfl
@[simp] theorem busWrite_seqStep (a d : Byte) (s : State) : (busWrite a d s).seqStep = s.seqStep := rfl
@[simp] theorem busWrite_cOp (a d : Byte) (s : State) : (busWrite a d s).cOp = s.cOp := rfl
@[simp] theorem busWrite_cField (a d : Byte) (s : State) : (busWrite a d s).cField = s.cField := rfl
@[simp] theorem busWrite_cValue (a d : Byte) (s : State) : (busWrite a d s).cValue = s.cValue := rfl
@[simp] theorem busWrite_rdLatch (a d : Byte) (s : State) : (busWrite a d s).rdLatch = s.rdLatch := rfl
@[simp] theorem busWrite_rspValid (a d : Byte) (s : State) : (busWrite a d s).rspValid = s.rspValid := rfl
@[simp] theorem busWrite_rspData (a d : Byte) (s : State) : (busWrite a d s).rspData = s.rspData := rfl
@[simp] theorem busWrite_faultCode (a d : Byte) (s : State) : (busWrite a d s).faultCode = s.faultCode := rfl
@[simp] theorem busWrite_params (a d : Byte) (s : State) : (busWrite a d s).params = s.params := rfl
@[simp] theorem busWrite_chip (a d : Byte) (s : State) :
    (busWrite a d s).chip = settleChip s (flagAfterWrite s a (Memory.writeByte s.chip a d)) := rfl
@[simp] theorem busWrite_ptr (a d : Byte) (s : State) : (busWrite a d s).ptr = s.draw.ptrAfter := rfl
@[simp] theorem busWrite_busHung (a d : Byte) (s : State) : (busWrite a d s).busHung = s.busHung := rfl
@[simp] theorem busWrite_commands (a d : Byte) (s : State) : (busWrite a d s).commands = s.commands := rfl
@[simp] theorem busWrite_inputs (a d : Byte) (s : State) : (busWrite a d s).inputs = s.inputs := rfl
@[simp] theorem busWrite_draw (a d : Byte) (s : State) : (busWrite a d s).draw = s.draw := rfl
@[simp] theorem busWrite_drawCount (a d : Byte) (s : State) : (busWrite a d s).drawCount = s.drawCount := rfl
@[simp] theorem busWrite_busLog (a d : Byte) (s : State) :
    (busWrite a d s).busLog = s.busLog ++ [.write s.params.devAddr a d] := rfl
@[simp] theorem busWrite_rspLog (a d : Byte) (s : State) : (busWrite a d s).rspLog = s.rspLog := rfl
@[simp] theorem busWrite_taken (a d : Byte) (s : State) : (busWrite a d s).taken = s.taken := rfl
@[simp] theorem busWrite_acknowledged (a d : Byte) (s : State) : (busWrite a d s).acknowledged = s.acknowledged := rfl

/-! ### busSetAddr -/

@[simp] theorem busSetAddr_phase (a : Byte) (s : State) : (busSetAddr a s).phase = s.phase := rfl
@[simp] theorem busSetAddr_seqStep (a : Byte) (s : State) : (busSetAddr a s).seqStep = s.seqStep := rfl
@[simp] theorem busSetAddr_cOp (a : Byte) (s : State) : (busSetAddr a s).cOp = s.cOp := rfl
@[simp] theorem busSetAddr_cField (a : Byte) (s : State) : (busSetAddr a s).cField = s.cField := rfl
@[simp] theorem busSetAddr_cValue (a : Byte) (s : State) : (busSetAddr a s).cValue = s.cValue := rfl
@[simp] theorem busSetAddr_rdLatch (a : Byte) (s : State) : (busSetAddr a s).rdLatch = s.rdLatch := rfl
@[simp] theorem busSetAddr_rspValid (a : Byte) (s : State) : (busSetAddr a s).rspValid = s.rspValid := rfl
@[simp] theorem busSetAddr_rspData (a : Byte) (s : State) : (busSetAddr a s).rspData = s.rspData := rfl
@[simp] theorem busSetAddr_faultCode (a : Byte) (s : State) : (busSetAddr a s).faultCode = s.faultCode := rfl
@[simp] theorem busSetAddr_params (a : Byte) (s : State) : (busSetAddr a s).params = s.params := rfl
@[simp] theorem busSetAddr_chip (a : Byte) (s : State) : (busSetAddr a s).chip = settleChip s s.chip := rfl
@[simp] theorem busSetAddr_ptr (a : Byte) (s : State) : (busSetAddr a s).ptr = a := rfl
@[simp] theorem busSetAddr_busHung (a : Byte) (s : State) : (busSetAddr a s).busHung = s.busHung := rfl
@[simp] theorem busSetAddr_commands (a : Byte) (s : State) : (busSetAddr a s).commands = s.commands := rfl
@[simp] theorem busSetAddr_inputs (a : Byte) (s : State) : (busSetAddr a s).inputs = s.inputs := rfl
@[simp] theorem busSetAddr_draw (a : Byte) (s : State) : (busSetAddr a s).draw = s.draw := rfl
@[simp] theorem busSetAddr_drawCount (a : Byte) (s : State) : (busSetAddr a s).drawCount = s.drawCount := rfl
@[simp] theorem busSetAddr_busLog (a : Byte) (s : State) :
    (busSetAddr a s).busLog = s.busLog ++ [.setAddr s.params.devAddr a] := rfl
@[simp] theorem busSetAddr_rspLog (a : Byte) (s : State) : (busSetAddr a s).rspLog = s.rspLog := rfl
@[simp] theorem busSetAddr_taken (a : Byte) (s : State) : (busSetAddr a s).taken = s.taken := rfl
@[simp] theorem busSetAddr_acknowledged (a : Byte) (s : State) : (busSetAddr a s).acknowledged = s.acknowledged := rfl

/-! ### busRead -/

@[simp] theorem busRead_phase (s : State) : (busRead s).phase = s.phase := rfl
@[simp] theorem busRead_seqStep (s : State) : (busRead s).seqStep = s.seqStep := rfl
@[simp] theorem busRead_cOp (s : State) : (busRead s).cOp = s.cOp := rfl
@[simp] theorem busRead_cField (s : State) : (busRead s).cField = s.cField := rfl
@[simp] theorem busRead_cValue (s : State) : (busRead s).cValue = s.cValue := rfl
@[simp] theorem busRead_rdLatch (s : State) : (busRead s).rdLatch = busReadData s := rfl
@[simp] theorem busRead_rspValid (s : State) : (busRead s).rspValid = s.rspValid := rfl
@[simp] theorem busRead_rspData (s : State) : (busRead s).rspData = s.rspData := rfl
@[simp] theorem busRead_faultCode (s : State) : (busRead s).faultCode = s.faultCode := rfl
@[simp] theorem busRead_params (s : State) : (busRead s).params = s.params := rfl
@[simp] theorem busRead_chip (s : State) : (busRead s).chip = settleChip s s.chip := rfl
@[simp] theorem busRead_ptr (s : State) : (busRead s).ptr = s.draw.ptrAfter := rfl
@[simp] theorem busRead_busHung (s : State) : (busRead s).busHung = s.busHung := rfl
@[simp] theorem busRead_commands (s : State) : (busRead s).commands = s.commands := rfl
@[simp] theorem busRead_inputs (s : State) : (busRead s).inputs = s.inputs := rfl
@[simp] theorem busRead_draw (s : State) : (busRead s).draw = s.draw := rfl
@[simp] theorem busRead_drawCount (s : State) : (busRead s).drawCount = s.drawCount := rfl
@[simp] theorem busRead_busLog (s : State) :
    (busRead s).busLog = s.busLog ++ [.read s.params.devAddr (busReadData s)] := rfl
@[simp] theorem busRead_rspLog (s : State) : (busRead s).rspLog = s.rspLog := rfl
@[simp] theorem busRead_taken (s : State) : (busRead s).taken = s.taken := rfl
@[simp] theorem busRead_acknowledged (s : State) : (busRead s).acknowledged = s.acknowledged := rfl

/-! ### respond -/

@[simp] theorem respond_phase (r : Nat) (s : State) : (respond r s).phase = .idle := rfl
@[simp] theorem respond_seqStep (r : Nat) (s : State) : (respond r s).seqStep = 0 := rfl
@[simp] theorem respond_cOp (r : Nat) (s : State) : (respond r s).cOp = s.cOp := rfl
@[simp] theorem respond_cField (r : Nat) (s : State) : (respond r s).cField = s.cField := rfl
@[simp] theorem respond_cValue (r : Nat) (s : State) : (respond r s).cValue = s.cValue := rfl
@[simp] theorem respond_rdLatch (r : Nat) (s : State) : (respond r s).rdLatch = s.rdLatch := rfl
@[simp] theorem respond_rspValid (r : Nat) (s : State) : (respond r s).rspValid = true := rfl
@[simp] theorem respond_rspData (r : Nat) (s : State) :
    (respond r s).rspData = zeroExtend s.params.resultBits r := rfl
@[simp] theorem respond_faultCode (r : Nat) (s : State) : (respond r s).faultCode = s.faultCode := rfl
@[simp] theorem respond_params (r : Nat) (s : State) : (respond r s).params = s.params := rfl
@[simp] theorem respond_chip (r : Nat) (s : State) : (respond r s).chip = s.chip := rfl
@[simp] theorem respond_ptr (r : Nat) (s : State) : (respond r s).ptr = s.ptr := rfl
@[simp] theorem respond_busHung (r : Nat) (s : State) : (respond r s).busHung = s.busHung := rfl
@[simp] theorem respond_commands (r : Nat) (s : State) : (respond r s).commands = s.commands := rfl
@[simp] theorem respond_inputs (r : Nat) (s : State) : (respond r s).inputs = s.inputs := rfl
@[simp] theorem respond_draw (r : Nat) (s : State) : (respond r s).draw = s.draw := rfl
@[simp] theorem respond_drawCount (r : Nat) (s : State) : (respond r s).drawCount = s.drawCount := rfl
@[simp] theorem respond_busLog (r : Nat) (s : State) : (respond r s).busLog = s.busLog := rfl
@[simp] theorem respond_rspLog (r : Nat) (s : State) :
    (respond r s).rspLog = s.rspLog ++ [zeroExtend s.params.resultBits r] := rfl
@[simp] theorem respond_taken (r : Nat) (s : State) : (respond r s).taken = s.taken := rfl
@[simp] theorem respond_acknowledged (r : Nat) (s : State) : (respond r s).acknowledged = s.acknowledged := rfl

/-! ### raiseFault -/

@[simp] theorem raiseFault_phase (c : FaultCause) (s : State) : (raiseFault c s).phase = .fault := rfl
@[simp] theorem raiseFault_seqStep (c : FaultCause) (s : State) : (raiseFault c s).seqStep = s.seqStep := rfl
@[simp] theorem raiseFault_cOp (c : FaultCause) (s : State) : (raiseFault c s).cOp = s.cOp := rfl
@[simp] theorem raiseFault_cField (c : FaultCause) (s : State) : (raiseFault c s).cField = s.cField := rfl
@[simp] theorem raiseFault_cValue (c : FaultCause) (s : State) : (raiseFault c s).cValue = s.cValue := rfl
@[simp] theorem raiseFault_rdLatch (c : FaultCause) (s : State) : (raiseFault c s).rdLatch = s.rdLatch := rfl
@[simp] theorem raiseFault_rspValid (c : FaultCause) (s : State) : (raiseFault c s).rspValid = s.rspValid := rfl
@[simp] theorem raiseFault_rspData (c : FaultCause) (s : State) : (raiseFault c s).rspData = s.rspData := rfl
@[simp] theorem raiseFault_faultCode (c : FaultCause) (s : State) : (raiseFault c s).faultCode = faultCodeOf c := rfl
@[simp] theorem raiseFault_params (c : FaultCause) (s : State) : (raiseFault c s).params = s.params := rfl
@[simp] theorem raiseFault_chip (c : FaultCause) (s : State) : (raiseFault c s).chip = s.chip := rfl
@[simp] theorem raiseFault_ptr (c : FaultCause) (s : State) : (raiseFault c s).ptr = s.ptr := rfl
@[simp] theorem raiseFault_busHung (c : FaultCause) (s : State) : (raiseFault c s).busHung = s.busHung := rfl
@[simp] theorem raiseFault_commands (c : FaultCause) (s : State) : (raiseFault c s).commands = s.commands := rfl
@[simp] theorem raiseFault_inputs (c : FaultCause) (s : State) : (raiseFault c s).inputs = s.inputs := rfl
@[simp] theorem raiseFault_draw (c : FaultCause) (s : State) : (raiseFault c s).draw = s.draw := rfl
@[simp] theorem raiseFault_drawCount (c : FaultCause) (s : State) : (raiseFault c s).drawCount = s.drawCount := rfl
@[simp] theorem raiseFault_busLog (c : FaultCause) (s : State) : (raiseFault c s).busLog = s.busLog := rfl
@[simp] theorem raiseFault_rspLog (c : FaultCause) (s : State) : (raiseFault c s).rspLog = s.rspLog := rfl
@[simp] theorem raiseFault_taken (c : FaultCause) (s : State) : (raiseFault c s).taken = s.taken := rfl
@[simp] theorem raiseFault_acknowledged (c : FaultCause) (s : State) :
    (raiseFault c s).acknowledged = s.acknowledged := rfl

/-! ### resetUnit -/

@[simp] theorem resetUnit_phase (s : State) : (resetUnit s).phase = .idle := rfl
@[simp] theorem resetUnit_seqStep (s : State) : (resetUnit s).seqStep = 0 := rfl
@[simp] theorem resetUnit_cOp (s : State) : (resetUnit s).cOp = 0#2 := rfl
@[simp] theorem resetUnit_cField (s : State) : (resetUnit s).cField = 0#3 := rfl
@[simp] theorem resetUnit_cValue (s : State) : (resetUnit s).cValue = 0 := rfl
@[simp] theorem resetUnit_rdLatch (s : State) : (resetUnit s).rdLatch = 0#8 := rfl
@[simp] theorem resetUnit_rspValid (s : State) : (resetUnit s).rspValid = false := rfl
@[simp] theorem resetUnit_rspData (s : State) : (resetUnit s).rspData = 0 := rfl
@[simp] theorem resetUnit_faultCode (s : State) : (resetUnit s).faultCode = 0#2 := rfl
@[simp] theorem resetUnit_params (s : State) : (resetUnit s).params = s.params := rfl
@[simp] theorem resetUnit_chip (s : State) : (resetUnit s).chip = s.chip := rfl
@[simp] theorem resetUnit_ptr (s : State) : (resetUnit s).ptr = s.ptr := rfl
@[simp] theorem resetUnit_busHung (s : State) : (resetUnit s).busHung = false := rfl
@[simp] theorem resetUnit_commands (s : State) : (resetUnit s).commands = s.commands := rfl
@[simp] theorem resetUnit_inputs (s : State) : (resetUnit s).inputs = s.inputs := rfl
@[simp] theorem resetUnit_draw (s : State) : (resetUnit s).draw = s.draw := rfl
@[simp] theorem resetUnit_drawCount (s : State) : (resetUnit s).drawCount = s.drawCount := rfl
@[simp] theorem resetUnit_busLog (s : State) : (resetUnit s).busLog = s.busLog := rfl
@[simp] theorem resetUnit_rspLog (s : State) : (resetUnit s).rspLog = s.rspLog := rfl
@[simp] theorem resetUnit_taken (s : State) : (resetUnit s).taken = s.taken := rfl
@[simp] theorem resetUnit_acknowledged (s : State) : (resetUnit s).acknowledged = s.acknowledged := rfl

/-! ### acknowledgeResponse -/

@[simp] theorem acknowledgeResponse_phase (s : State) : (acknowledgeResponse s).phase = s.phase := rfl
@[simp] theorem acknowledgeResponse_seqStep (s : State) : (acknowledgeResponse s).seqStep = s.seqStep := rfl
@[simp] theorem acknowledgeResponse_cOp (s : State) : (acknowledgeResponse s).cOp = s.cOp := rfl
@[simp] theorem acknowledgeResponse_cField (s : State) : (acknowledgeResponse s).cField = s.cField := rfl
@[simp] theorem acknowledgeResponse_cValue (s : State) : (acknowledgeResponse s).cValue = s.cValue := rfl
@[simp] theorem acknowledgeResponse_rdLatch (s : State) : (acknowledgeResponse s).rdLatch = s.rdLatch := rfl
@[simp] theorem acknowledgeResponse_rspValid (s : State) : (acknowledgeResponse s).rspValid = false := rfl
@[simp] theorem acknowledgeResponse_rspData (s : State) : (acknowledgeResponse s).rspData = s.rspData := rfl
@[simp] theorem acknowledgeResponse_faultCode (s : State) : (acknowledgeResponse s).faultCode = s.faultCode := rfl
@[simp] theorem acknowledgeResponse_params (s : State) : (acknowledgeResponse s).params = s.params := rfl
@[simp] theorem acknowledgeResponse_chip (s : State) : (acknowledgeResponse s).chip = s.chip := rfl
@[simp] theorem acknowledgeResponse_ptr (s : State) : (acknowledgeResponse s).ptr = s.ptr := rfl
@[simp] theorem acknowledgeResponse_busHung (s : State) : (acknowledgeResponse s).busHung = s.busHung := rfl
@[simp] theorem acknowledgeResponse_commands (s : State) : (acknowledgeResponse s).commands = s.commands := rfl
@[simp] theorem acknowledgeResponse_inputs (s : State) : (acknowledgeResponse s).inputs = s.inputs := rfl
@[simp] theorem acknowledgeResponse_draw (s : State) : (acknowledgeResponse s).draw = s.draw := rfl
@[simp] theorem acknowledgeResponse_drawCount (s : State) : (acknowledgeResponse s).drawCount = s.drawCount := rfl
@[simp] theorem acknowledgeResponse_busLog (s : State) : (acknowledgeResponse s).busLog = s.busLog := rfl
@[simp] theorem acknowledgeResponse_rspLog (s : State) : (acknowledgeResponse s).rspLog = s.rspLog := rfl
@[simp] theorem acknowledgeResponse_taken (s : State) : (acknowledgeResponse s).taken = s.taken := rfl
@[simp] theorem acknowledgeResponse_acknowledged (s : State) :
    (acknowledgeResponse s).acknowledged = if s.rspValid = true then s.acknowledged + 1 else s.acknowledged := rfl

/-! ### latchCommand -/

@[simp] theorem latchCommand_phase (i : Instr) (s : State) : (latchCommand i s).phase = .busy := rfl
@[simp] theorem latchCommand_seqStep (i : Instr) (s : State) : (latchCommand i s).seqStep = 0 := rfl
@[simp] theorem latchCommand_cOp (i : Instr) (s : State) :
    (latchCommand i s).cOp = (encode s.params.valueBits i).op := rfl
@[simp] theorem latchCommand_cField (i : Instr) (s : State) :
    (latchCommand i s).cField = (encode s.params.valueBits i).tag := rfl
@[simp] theorem latchCommand_rdLatch (i : Instr) (s : State) : (latchCommand i s).rdLatch = s.rdLatch := rfl
@[simp] theorem latchCommand_rspValid (i : Instr) (s : State) : (latchCommand i s).rspValid = s.rspValid := rfl
@[simp] theorem latchCommand_rspData (i : Instr) (s : State) : (latchCommand i s).rspData = s.rspData := rfl
@[simp] theorem latchCommand_faultCode (i : Instr) (s : State) : (latchCommand i s).faultCode = s.faultCode := rfl
@[simp] theorem latchCommand_params (i : Instr) (s : State) : (latchCommand i s).params = s.params := rfl
@[simp] theorem latchCommand_chip (i : Instr) (s : State) : (latchCommand i s).chip = s.chip := rfl
@[simp] theorem latchCommand_ptr (i : Instr) (s : State) : (latchCommand i s).ptr = s.ptr := rfl
@[simp] theorem latchCommand_busHung (i : Instr) (s : State) : (latchCommand i s).busHung = s.busHung := rfl
@[simp] theorem latchCommand_commands (i : Instr) (s : State) : (latchCommand i s).commands = s.commands := rfl
@[simp] theorem latchCommand_inputs (i : Instr) (s : State) : (latchCommand i s).inputs = s.inputs := rfl
@[simp] theorem latchCommand_draw (i : Instr) (s : State) : (latchCommand i s).draw = s.draw := rfl
@[simp] theorem latchCommand_drawCount (i : Instr) (s : State) : (latchCommand i s).drawCount = s.drawCount := rfl
@[simp] theorem latchCommand_busLog (i : Instr) (s : State) : (latchCommand i s).busLog = s.busLog := rfl
@[simp] theorem latchCommand_rspLog (i : Instr) (s : State) : (latchCommand i s).rspLog = s.rspLog := rfl
@[simp] theorem latchCommand_taken (i : Instr) (s : State) : (latchCommand i s).taken = s.taken := rfl
@[simp] theorem latchCommand_acknowledged (i : Instr) (s : State) :
    (latchCommand i s).acknowledged = s.acknowledged := rfl

/-! ### takeInput -/

@[simp] theorem takeInput_phase (s : State) : (takeInput s).phase = s.phase := rfl
@[simp] theorem takeInput_seqStep (s : State) : (takeInput s).seqStep = s.seqStep := rfl
@[simp] theorem takeInput_cOp (s : State) : (takeInput s).cOp = s.cOp := rfl
@[simp] theorem takeInput_cField (s : State) : (takeInput s).cField = s.cField := rfl
@[simp] theorem takeInput_cValue (s : State) : (takeInput s).cValue = s.cValue := rfl
@[simp] theorem takeInput_rdLatch (s : State) : (takeInput s).rdLatch = s.rdLatch := rfl
@[simp] theorem takeInput_rspValid (s : State) : (takeInput s).rspValid = s.rspValid := rfl
@[simp] theorem takeInput_rspData (s : State) : (takeInput s).rspData = s.rspData := rfl
@[simp] theorem takeInput_faultCode (s : State) : (takeInput s).faultCode = s.faultCode := rfl
@[simp] theorem takeInput_params (s : State) : (takeInput s).params = s.params := rfl
@[simp] theorem takeInput_chip (s : State) : (takeInput s).chip = s.chip := rfl
@[simp] theorem takeInput_ptr (s : State) : (takeInput s).ptr = s.ptr := rfl
@[simp] theorem takeInput_busHung (s : State) : (takeInput s).busHung = s.busHung := rfl
@[simp] theorem takeInput_commands (s : State) : (takeInput s).commands = s.commands := rfl
@[simp] theorem takeInput_inputs (s : State) : (takeInput s).inputs = s.inputs.tail := rfl
@[simp] theorem takeInput_draw (s : State) : (takeInput s).draw = (nextInput s).draw := rfl
@[simp] theorem takeInput_drawCount (s : State) : (takeInput s).drawCount = s.drawCount + 1 := rfl
@[simp] theorem takeInput_busLog (s : State) : (takeInput s).busLog = s.busLog := rfl
@[simp] theorem takeInput_rspLog (s : State) : (takeInput s).rspLog = s.rspLog := rfl
@[simp] theorem takeInput_taken (s : State) : (takeInput s).taken = s.taken := rfl
@[simp] theorem takeInput_acknowledged (s : State) : (takeInput s).acknowledged = s.acknowledged := rfl

/-! ### takeCommand -/

@[simp] theorem takeCommand_phase (s : State) : (takeCommand s).phase = s.phase := rfl
@[simp] theorem takeCommand_seqStep (s : State) : (takeCommand s).seqStep = s.seqStep := rfl
@[simp] theorem takeCommand_cOp (s : State) : (takeCommand s).cOp = s.cOp := rfl
@[simp] theorem takeCommand_cField (s : State) : (takeCommand s).cField = s.cField := rfl
@[simp] theorem takeCommand_cValue (s : State) : (takeCommand s).cValue = s.cValue := rfl
@[simp] theorem takeCommand_rdLatch (s : State) : (takeCommand s).rdLatch = s.rdLatch := rfl
@[simp] theorem takeCommand_rspValid (s : State) : (takeCommand s).rspValid = s.rspValid := rfl
@[simp] theorem takeCommand_rspData (s : State) : (takeCommand s).rspData = s.rspData := rfl
@[simp] theorem takeCommand_faultCode (s : State) : (takeCommand s).faultCode = s.faultCode := rfl
@[simp] theorem takeCommand_params (s : State) : (takeCommand s).params = s.params := rfl
@[simp] theorem takeCommand_chip (s : State) : (takeCommand s).chip = s.chip := rfl
@[simp] theorem takeCommand_ptr (s : State) : (takeCommand s).ptr = s.ptr := rfl
@[simp] theorem takeCommand_busHung (s : State) : (takeCommand s).busHung = s.busHung := rfl
@[simp] theorem takeCommand_commands (s : State) : (takeCommand s).commands = s.commands.tail := rfl
@[simp] theorem takeCommand_inputs (s : State) : (takeCommand s).inputs = s.inputs := rfl
@[simp] theorem takeCommand_draw (s : State) : (takeCommand s).draw = s.draw := rfl
@[simp] theorem takeCommand_drawCount (s : State) : (takeCommand s).drawCount = s.drawCount := rfl
@[simp] theorem takeCommand_busLog (s : State) : (takeCommand s).busLog = s.busLog := rfl
@[simp] theorem takeCommand_rspLog (s : State) : (takeCommand s).rspLog = s.rspLog := rfl
@[simp] theorem takeCommand_taken (s : State) : (takeCommand s).taken = s.taken + 1 := rfl
@[simp] theorem takeCommand_acknowledged (s : State) : (takeCommand s).acknowledged = s.acknowledged := rfl

/-! ### placeCommand -/

@[simp] theorem placeCommand_phase (c : Command) (s : State) : (placeCommand c s).phase = .idle := rfl
@[simp] theorem placeCommand_seqStep (c : Command) (s : State) : (placeCommand c s).seqStep = 0 := rfl
@[simp] theorem placeCommand_cOp (c : Command) (s : State) : (placeCommand c s).cOp = s.cOp := rfl
@[simp] theorem placeCommand_cField (c : Command) (s : State) : (placeCommand c s).cField = s.cField := rfl
@[simp] theorem placeCommand_cValue (c : Command) (s : State) : (placeCommand c s).cValue = s.cValue := rfl
@[simp] theorem placeCommand_rdLatch (c : Command) (s : State) : (placeCommand c s).rdLatch = s.rdLatch := rfl
@[simp] theorem placeCommand_rspValid (c : Command) (s : State) : (placeCommand c s).rspValid = false := rfl
@[simp] theorem placeCommand_rspData (c : Command) (s : State) : (placeCommand c s).rspData = s.rspData := rfl
@[simp] theorem placeCommand_faultCode (c : Command) (s : State) : (placeCommand c s).faultCode = 0#2 := rfl
@[simp] theorem placeCommand_params (c : Command) (s : State) : (placeCommand c s).params = s.params := rfl
@[simp] theorem placeCommand_chip (c : Command) (s : State) : (placeCommand c s).chip = s.chip := rfl
@[simp] theorem placeCommand_ptr (c : Command) (s : State) : (placeCommand c s).ptr = s.ptr := rfl
@[simp] theorem placeCommand_busHung (c : Command) (s : State) : (placeCommand c s).busHung = false := rfl
@[simp] theorem placeCommand_commands (c : Command) (s : State) : (placeCommand c s).commands = c :: s.commands := rfl
@[simp] theorem placeCommand_inputs (c : Command) (s : State) : (placeCommand c s).inputs = [] := rfl
@[simp] theorem placeCommand_draw (c : Command) (s : State) : (placeCommand c s).draw = s.draw := rfl
@[simp] theorem placeCommand_drawCount (c : Command) (s : State) : (placeCommand c s).drawCount = s.drawCount := rfl
@[simp] theorem placeCommand_busLog (c : Command) (s : State) : (placeCommand c s).busLog = s.busLog := rfl
@[simp] theorem placeCommand_rspLog (c : Command) (s : State) : (placeCommand c s).rspLog = s.rspLog := rfl
@[simp] theorem placeCommand_taken (c : Command) (s : State) : (placeCommand c s).taken = s.taken := rfl
@[simp] theorem placeCommand_acknowledged (c : Command) (s : State) :
    (placeCommand c s).acknowledged = s.acknowledged := rfl

/-! ### withDraw -/

@[simp] theorem withDraw_phase (d : Draw) (s : State) : (withDraw d s).phase = s.phase := rfl
@[simp] theorem withDraw_seqStep (d : Draw) (s : State) : (withDraw d s).seqStep = s.seqStep := rfl
@[simp] theorem withDraw_cOp (d : Draw) (s : State) : (withDraw d s).cOp = s.cOp := rfl
@[simp] theorem withDraw_cField (d : Draw) (s : State) : (withDraw d s).cField = s.cField := rfl
@[simp] theorem withDraw_cValue (d : Draw) (s : State) : (withDraw d s).cValue = s.cValue := rfl
@[simp] theorem withDraw_rdLatch (d : Draw) (s : State) : (withDraw d s).rdLatch = s.rdLatch := rfl
@[simp] theorem withDraw_rspValid (d : Draw) (s : State) : (withDraw d s).rspValid = s.rspValid := rfl
@[simp] theorem withDraw_rspData (d : Draw) (s : State) : (withDraw d s).rspData = s.rspData := rfl
@[simp] theorem withDraw_faultCode (d : Draw) (s : State) : (withDraw d s).faultCode = s.faultCode := rfl
@[simp] theorem withDraw_params (d : Draw) (s : State) : (withDraw d s).params = s.params := rfl
@[simp] theorem withDraw_chip (d : Draw) (s : State) : (withDraw d s).chip = s.chip := rfl
@[simp] theorem withDraw_ptr (d : Draw) (s : State) : (withDraw d s).ptr = s.ptr := rfl
@[simp] theorem withDraw_busHung (d : Draw) (s : State) : (withDraw d s).busHung = s.busHung := rfl
@[simp] theorem withDraw_commands (d : Draw) (s : State) : (withDraw d s).commands = s.commands := rfl
@[simp] theorem withDraw_inputs (d : Draw) (s : State) : (withDraw d s).inputs = s.inputs := rfl
@[simp] theorem withDraw_draw (d : Draw) (s : State) : (withDraw d s).draw = d := rfl
@[simp] theorem withDraw_drawCount (d : Draw) (s : State) : (withDraw d s).drawCount = s.drawCount := rfl
@[simp] theorem withDraw_busLog (d : Draw) (s : State) : (withDraw d s).busLog = s.busLog := rfl
@[simp] theorem withDraw_rspLog (d : Draw) (s : State) : (withDraw d s).rspLog = s.rspLog := rfl
@[simp] theorem withDraw_taken (d : Draw) (s : State) : (withDraw d s).taken = s.taken := rfl
@[simp] theorem withDraw_acknowledged (d : Draw) (s : State) : (withDraw d s).acknowledged = s.acknowledged := rfl

/-- SET_FIELD latches its operand (R23). -/
@[simp] theorem latchCommand_setField_cValue (f : TimeField) (v : Int) (s : State) :
    (latchCommand (.setField f v) s).cValue = v.toNat := rfl

@[simp] theorem latchCommand_getField_cValue (f : TimeField) (s : State) :
    (latchCommand (.getField f) s).cValue = s.cValue := rfl

@[simp] theorem latchCommand_getFieldRaw_cValue (f : TimeField) (s : State) :
    (latchCommand (.getFieldRaw f) s).cValue = s.cValue := rfl

@[simp] theorem latchCommand_restartIntegrity_cValue (s : State) :
    (latchCommand .restartIntegrity s).cValue = s.cValue := rfl

end Sys2Proof.Machine
end

