-- ==== Sys2Proof/Laws/Ops.lean ====
section
/-! SUPPORT. One lemma per shared operation: what it can do, said once. -/

namespace Sys2Proof.Machine

/-! ### Operands -/

/-- NORMALISE gives the remainder (R123). -/
theorem normalise_of_nonneg {d : FieldDesc} {v : Int} (hv : 0 ≤ v) (hm : 1 ≤ d.mod) :
    normalise d v = some (v.toNat % d.mod) := if_pos ⟨hv, hm⟩

/-- Everything NORMALISE can give: the remainder of a non-negative value, below MOD. -/
theorem normalise_cases {d : FieldDesc} {v : Int} {w : Nat} (h : normalise d v = some w) :
    0 ≤ v ∧ w = v.toNat % d.mod ∧ w < d.mod := by
  unfold normalise at h
  split at h
  · rename_i hc
    obtain rfl := Option.some.inj h
    exact ⟨hc.1, rfl, Nat.mod_lt _ (by omega)⟩
  · cases h

/-- The field write's byte in an accepted table (R123, R124). -/
theorem writeData_of_wf {p : Params} (hp : p.wf = true) (f : TimeField) {v : Int} (hv : 0 ≤ v) :
    writeData (p.table.row f) v =
      encodeBCD ((v.toNat % (p.table.row f).mod : Nat) : Int) := by
  have hm := Params.wf_modulus hp f
  have hn : normalise (p.table.row f) v = some (v.toNat % (p.table.row f).mod) :=
    normalise_of_nonneg hv hm.1
  rw [writeData, hn]

/-- In an accepted table the remainder is inside the encoder's domain (R102). -/
theorem remainder_le {p : Params} (hp : p.wf = true) (f : TimeField) (n : Nat) :
    n % (p.table.row f).mod ≤ 99 := by
  have hm := Params.wf_modulus hp f
  have := Nat.mod_lt n (show 0 < (p.table.row f).mod by omega)
  omega

/-- The GET_FIELD result in one line (R153). -/
theorem fieldResult_eq (d : FieldDesc) (raw : Byte) :
    fieldResult d raw = clamp (decodeBCD (raw &&& d.mask)) d.min d.max + d.offset := rfl

/-- A clamped value is inside its range (R10). -/
theorem clamp_le {x lo hi : Nat} (h : lo ≤ hi) : clamp x lo hi ≤ hi := by
  unfold clamp; split <;> [exact h; (split <;> omega)]

theorem le_clamp {x lo hi : Nat} (h : lo ≤ hi) : lo ≤ clamp x lo hi := by
  unfold clamp; split <;> [exact le_rfl; (split <;> omega)]

/-! ### The response port (R24, WF6) -/

/-- A value that the port holds goes out unchanged. -/
theorem zeroExtend_of_lt {n v : Nat} (h : v < 2 ^ n) : zeroExtend n v = v := Nat.mod_eq_of_lt h

@[simp] theorem zeroExtend_zero (n : Nat) : zeroExtend n 0 = 0 := Nat.zero_mod _

/-- A byte goes out unchanged on a port of at least 8 bits (R154). -/
theorem zeroExtend_byte {n : Nat} (h : 8 ≤ n) (b : Byte) : zeroExtend n b.toNat = b.toNat :=
  zeroExtend_of_lt (Nat.lt_of_lt_of_le b.isLt (Nat.pow_le_pow_right (by omega) h))

/-- GET_FIELD's result goes out unchanged in an accepted machine (R122 WF6). -/
theorem zeroExtend_fieldResult {p : Params} (hp : p.wf = true) (f : TimeField) (raw : Byte) :
    zeroExtend p.resultBits (fieldResult (p.table.row f) raw) = fieldResult (p.table.row f) raw := by
  apply zeroExtend_of_lt
  have h1 := Params.wf_result hp f
  have h2 := clamp_le (x := decodeBCD (raw &&& (p.table.row f).mask)) (Params.wf_range hp f)
  rw [fieldResult_eq]
  omega

/-! ### The multiplexers (R129, R130) -/

/-- What WRITE_MUX can give (R129). -/
theorem writeMux_cases {p : Params} {sel : MuxSelect} {f : TimeField} {v : Int} {rd a d : Byte}
    (h : writeMux p sel f v rd = some (a, d)) :
    (sel = .field ∧ a = (p.table.row f).addr ∧ writeData (p.table.row f) v = some d) ∨
      (sel = .integrity ∧ a = secondAddr p ∧ d = clearIntegrity p rd) := by
  cases sel with
  | field =>
    simp only [writeMux] at h
    split at h
    · rename_i d' hd
      obtain ⟨rfl, rfl⟩ := Prod.mk.inj (Option.some.inj h)
      exact .inl ⟨rfl, rfl, hd⟩
    · cases h
  | integrity =>
    obtain ⟨rfl, rfl⟩ := Prod.mk.inj (Option.some.inj h)
    exact .inr ⟨rfl, rfl, rfl⟩

@[simp] theorem writeMux_integrity (p : Params) (f : TimeField) (v : Int) (rd : Byte) :
    writeMux p .integrity f v rd = some (secondAddr p, clearIntegrity p rd) := rfl

@[simp] theorem readAddrMux_field (p : Params) (f : TimeField) :
    readAddrMux p .field f = (p.table.row f).addr := rfl

@[simp] theorem readAddrMux_integrity (p : Params) (f : TimeField) :
    readAddrMux p .integrity f = secondAddr p := rfl

/-! ### The integrity bit -/

theorem clearIntegrity_flag (p : Params) (b : Byte) : integrityFlag p (clearIntegrity p b) = false := by
  have := p.integrityBit.isLt
  simp [integrityFlag, clearIntegrity, integrityMask, this]

theorem setIntegrity_flag (p : Params) (b : Byte) : integrityFlag p (setIntegrity p b) = true := by
  have := p.integrityBit.isLt
  simp [integrityFlag, setIntegrity, integrityMask, this]

/-! ### The chip under the PASSIVE environment (R33) -/

theorem settleChip_passive {s : State} (h : s.params.env = .passive) (m : Memory) : settleChip s m = m := by
  simp [settleChip, h]

theorem busReadData_passive {s : State} (h : s.params.env = .passive) :
    busReadData s = Memory.readByte s.chip s.ptr := by
  simp [busReadData, h]

theorem busReadData_free {s : State} (h : s.params.env = .free) : busReadData s = s.draw.readByte := by
  simp [busReadData, h]

/-! ### The command latches (R23, R150) -/

@[simp] theorem op_encode_setField (n : Nat) (f : TimeField) (v : Int) :
    (encode n (.setField f v)).op = 0b00#2 := op_headerOf _ _ _

@[simp] theorem op_encode_getField (n : Nat) (f : TimeField) : (encode n (.getField f)).op = 0b01#2 := op_headerOf _ _ _

@[simp] theorem op_encode_getFieldRaw (n : Nat) (f : TimeField) : (encode n (.getFieldRaw f)).op = 0b10#2 :=
  op_headerOf _ _ _

@[simp] theorem op_encode_restartIntegrity (n : Nat) : (encode n .restartIntegrity).op = 0b11#2 := op_headerOf _ _ _

@[simp] theorem tag_encode_setField (n : Nat) (f : TimeField) (v : Int) :
    (encode n (.setField f v)).tag = f.tag := tag_headerOf _ _ _

@[simp] theorem tag_encode_getField (n : Nat) (f : TimeField) : (encode n (.getField f)).tag = f.tag := tag_headerOf _ _ _

@[simp] theorem tag_encode_getFieldRaw (n : Nat) (f : TimeField) : (encode n (.getFieldRaw f)).tag = f.tag :=
  tag_headerOf _ _ _

@[simp] theorem tag_encode_restartIntegrity (n : Nat) : (encode n .restartIntegrity).tag = 0b000#3 := tag_headerOf _ _ _

/-- The latched command depends on the three command latches and the parameters only. -/
theorem latchedCommand_congr {s t : State} (h1 : t.cOp = s.cOp) (h2 : t.cField = s.cField)
    (h3 : t.cValue = s.cValue) (h4 : t.params = s.params) : latchedCommand t = latchedCommand s := by
  rw [latchedCommand, latchedCommand, h1, h2, h3, h4]

@[simp] theorem latchedCommand_advanceStep (s : State) :
    latchedCommand (advanceStep s) = latchedCommand s := latchedCommand_congr rfl rfl rfl rfl

@[simp] theorem latchedCommand_busWrite (a d : Byte) (s : State) :
    latchedCommand (busWrite a d s) = latchedCommand s := latchedCommand_congr rfl rfl rfl rfl

@[simp] theorem latchedCommand_busSetAddr (a : Byte) (s : State) :
    latchedCommand (busSetAddr a s) = latchedCommand s := latchedCommand_congr rfl rfl rfl rfl

@[simp] theorem latchedCommand_busRead (s : State) :
    latchedCommand (busRead s) = latchedCommand s := latchedCommand_congr rfl rfl rfl rfl

@[simp] theorem latchedCommand_takeInput (s : State) :
    latchedCommand (takeInput s) = latchedCommand s := latchedCommand_congr rfl rfl rfl rfl

@[simp] theorem latchedCommand_takeCommand (s : State) :
    latchedCommand (takeCommand s) = latchedCommand s := latchedCommand_congr rfl rfl rfl rfl

@[simp] theorem latchedCommand_withDraw (d : Draw) (s : State) :
    latchedCommand (withDraw d s) = latchedCommand s := latchedCommand_congr rfl rfl rfl rfl

theorem latchedCommand_of_decode {s : State} {i : Instr}
    (h : decode s.params.valueBits ⟨headerOf s.cOp s.cField, s.cValue⟩ = .ok i) : latchedCommand s = some i := by
  rw [latchedCommand, h]

theorem decode_of_latchedCommand {s : State} {i : Instr} (h : latchedCommand s = some i) :
    decode s.params.valueBits ⟨headerOf s.cOp s.cField, s.cValue⟩ = .ok i := by
  unfold latchedCommand at h
  split at h
  · rename_i j hj
    exact Option.some.inj h ▸ hj
  · cases h

/-- What is latched at acceptance is the command accepted. -/
theorem latchedCommand_latchCommand {i : Instr} {s : State} (h : i.wf s.params.valueBits = true) :
    latchedCommand (latchCommand i s) = some i := by
  apply latchedCommand_of_decode
  rw [latchCommand_cOp, latchCommand_cField, latchCommand_params]
  cases i with
  | setField f v =>
    obtain ⟨h1, h2⟩ := Instr.wf_setField.mp h
    have hd := decode_setField_natCast s.params.valueBits f (k := v.toNat) (by omega)
    rw [Int.toNat_of_nonneg h1] at hd
    simpa using hd
  | getField f => simpa using decode_getField _ f s.cValue
  | getFieldRaw f => simpa using decode_getFieldRaw _ f s.cValue
  | restartIntegrity => simpa using decode_restartIntegrity _ s.cValue

/-- What the latches hold is well formed. -/
theorem wf_of_latchedCommand {s : State} {i : Instr} (h : latchedCommand s = some i) :
    i.wf s.params.valueBits = true := wf_of_decode (decode_of_latchedCommand h)

/-! ### Serving a command (R150) -/

theorem serveCommand_ready (i : Instr) (row : State → Host.Outcome State Fault Refusal) {s : State}
    (h : Ready s) : serveCommand i row s = acceptCommand i s := by
  simp [serveCommand, h.1, h.2]

theorem serveCommand_busy {i : Instr} (row : State → Host.Outcome State Fault Refusal) {s : State}
    (hb : s.phase = .busy) (hl : latchedCommand s = some i) : serveCommand i row s = row s := by
  simp [serveCommand, hb, hl]

/-- A command is served in one of three ways: accepted, stepped, or held. -/
theorem serveCommand_cases {i : Instr} {row : State → Host.Outcome State Fault Refusal} {s : State}
    {o : Host.Outcome State Fault Refusal} (h : serveCommand i row s = o) :
    (Ready s ∧ acceptCommand i s = o) ∨
      (s.phase = .busy ∧ latchedCommand s = some i ∧ row s = o) ∨
      (¬Ready s ∧ ¬(s.phase = .busy ∧ latchedCommand s = some i) ∧ o = .next s) := by
  unfold serveCommand at h
  split at h
  · rename_i hp
    split at h
    · rename_i hr
      exact .inr (.inr ⟨fun hs => by simp [hs.2] at hr, by simp [hp], h.symm⟩)
    · rename_i hr
      exact .inl ⟨⟨hp, by simpa using hr⟩, h⟩
  · rename_i hp
    split at h
    · rename_i hl
      exact .inr (.inl ⟨hp, hl, h⟩)
    · rename_i hl
      exact .inr (.inr ⟨fun hs => by simp [hs.1] at hp, fun hb => hl hb.2, h.symm⟩)
  · rename_i hp
    exact .inr (.inr ⟨fun hs => by simp [hs.1] at hp, by simp [hp], h.symm⟩)

/-- A BusWrite step: the multiplexer's address and data go on the bus, or the encoder refuses (R129). -/
theorem muxWrite_cases {sel : MuxSelect} {f : TimeField} {v : Int} {after : State → State} {s : State}
    {o : Host.Outcome State Fault Refusal} (h : muxWrite sel f v after s = o) :
    (∃ a d, writeMux s.params sel f v s.rdLatch = some (a, d) ∧ o = .next (after (busWrite a d s))) ∨
      (writeMux s.params sel f v s.rdLatch = none ∧ o = .refused .encoderDomain) := by
  unfold muxWrite at h
  split at h
  · rename_i a d hm
    exact .inl ⟨a, d, hm, h.symm⟩
  · rename_i hm
    exact .inr ⟨hm, h.symm⟩

end Sys2Proof.Machine
end

