-- ==== Sys2Proof/Laws/Exec.lean ====
section
/-! SUPPORT. What each command's row of the step table does (42_commands.md R157), one lemma per command and step, and
one inversion lemma for exec. -/

namespace Sys2Proof.Machine

/-- The row of the step table a command runs. -/
def rowOf (i : Instr) (s : State) : Host.Outcome State Fault Refusal :=
  match i with
  | .setField f v => setFieldRow f v s
  | .getField f => readRow f (fieldResult (s.params.table.row f)) s
  | .getFieldRaw f => readRow f BitVec.toNat s
  | .restartIntegrity => restartIntegrityRow s

/-- exec serves the command with its row (R150, R157). -/
theorem exec_eq_serveCommand (i : Instr) (s : State) : exec i s = serveCommand i (rowOf i) s := by
  cases i with
  | getField f => simp only [exec, execGetField, serveCommand]; rfl
  | setField f v => rfl
  | getFieldRaw f => rfl
  | restartIntegrity => rfl

theorem exec_ready (i : Instr) {s : State} (h : Ready s) : exec i s = acceptCommand i s := by
  rw [exec_eq_serveCommand]
  exact serveCommand_ready i _ h

theorem exec_busy {i : Instr} {s : State} (hb : s.phase = .busy) (hl : latchedCommand s = some i) :
    exec i s = rowOf i s := by
  rw [exec_eq_serveCommand]
  exact serveCommand_busy _ hb hl

/-- Everything exec can do: accept, run the current step of the latched command, or hold. -/
theorem exec_cases {i : Instr} {s : State} {o : Host.Outcome State Fault Refusal} (h : exec i s = o) :
    (Ready s ∧ acceptCommand i s = o) ∨
      (s.phase = .busy ∧ latchedCommand s = some i ∧ rowOf i s = o) ∨
      (¬Ready s ∧ ¬(s.phase = .busy ∧ latchedCommand s = some i) ∧ o = .next s) := by
  rw [exec_eq_serveCommand] at h
  exact serveCommand_cases h

/-- A well-formed command is accepted (R150). -/
theorem acceptCommand_of_wf {i : Instr} {s : State} (h : i.wf s.params.valueBits = true) :
    acceptCommand i s = .next (latchCommand i s) := by
  simp [acceptCommand, h]

/-- A negative operand faults (R64, log entry 14). -/
theorem acceptCommand_negative {f : TimeField} {v : Int} {s : State} (h : v < 0) :
    acceptCommand (.setField f v) s = .next (raiseFault .negativeValue s) := by
  simp [acceptCommand, Instr.wf, negativeOperand, h, not_le.mpr h]

/-- An operand the port cannot carry is refused (U17). -/
theorem acceptCommand_not_expressible {f : TimeField} {v : Int} {s : State}
    (h : ((2 ^ (s.params.valueBits - 1) : Nat) : Int) ≤ v) :
    acceptCommand (.setField f v) s = .refused .operandNotExpressible := by
  have hv : ¬v < 0 := by have := Nat.two_pow_pos (s.params.valueBits - 1); omega
  simp only [acceptCommand, Instr.wf_setField, negativeOperand, decide_eq_true_eq]
  rw [if_neg (by omega), if_neg hv]

/-- The next states acceptance can answer: latched, or a negative operand's fault. -/
theorem acceptCommand_cases {i : Instr} {s t : State} (h : acceptCommand i s = .next t) :
    (i.wf s.params.valueBits = true ∧ t = latchCommand i s) ∨
      (i.wf s.params.valueBits ≠ true ∧ t = raiseFault .negativeValue s) := by
  unfold acceptCommand at h
  split at h
  · rename_i hw
    exact .inl ⟨hw, (Host.Outcome.next.inj h).symm⟩
  · rename_i hw
    split at h
    · exact .inr ⟨hw, (Host.Outcome.next.inj h).symm⟩
    · cases h

/-! ### The rows, step by step -/

theorem integrityRestart_zero (s : State) :
    integrityRestart 0 s = .next (advanceStep (busSetAddr (secondAddr s.params) s)) := rfl

theorem integrityRestart_one (s : State) : integrityRestart 1 s = .next (advanceStep (busRead s)) := rfl

theorem integrityRestart_two (s : State) :
    integrityRestart 2 s =
      .next (respond 0 (busWrite (secondAddr s.params) (clearIntegrity s.params s.rdLatch) s)) := rfl

theorem setFieldRow_zero {f : TimeField} {v : Int} {s : State} (h : s.seqStep = 0) {d : Byte}
    (hd : writeData (s.params.table.row f) v = some d) :
    setFieldRow f v s = .next (advanceStep (busWrite (s.params.table.row f).addr d s)) := by
  simp [setFieldRow, h, muxWrite, writeMux, hd]

theorem setFieldRow_succ {f : TimeField} {v : Int} {s : State} {n : Nat} (h : s.seqStep = n + 1) :
    setFieldRow f v s = integrityRestart n s := by
  simp [setFieldRow, h]

theorem readRow_zero {f : TimeField} {r : Byte → Nat} {s : State} (h : s.seqStep = 0) :
    readRow f r s = .next (advanceStep (busSetAddr (s.params.table.row f).addr s)) := by
  simp [readRow, h, muxSetAddr]

theorem readRow_one {f : TimeField} {r : Byte → Nat} {s : State} (h : s.seqStep = 1) :
    readRow f r s = .next (respond (r (busReadData s)) (busRead s)) := by
  simp [readRow, h]

/-! ### exec, command by command and step by step (R157) -/

theorem exec_setField_zero {f : TimeField} {v : Int} {s : State} {d : Byte} (hb : s.phase = .busy)
    (hl : latchedCommand s = some (.setField f v)) (hs : s.seqStep = 0)
    (hd : writeData (s.params.table.row f) v = some d) :
    exec (.setField f v) s = .next (advanceStep (busWrite (s.params.table.row f).addr d s)) :=
  (exec_busy hb hl).trans (setFieldRow_zero hs hd)

theorem exec_setField_one {f : TimeField} {v : Int} {s : State} (hb : s.phase = .busy)
    (hl : latchedCommand s = some (.setField f v)) (hs : s.seqStep = 1) :
    exec (.setField f v) s = .next (advanceStep (busSetAddr (secondAddr s.params) s)) :=
  (exec_busy hb hl).trans (setFieldRow_succ hs)

theorem exec_setField_two {f : TimeField} {v : Int} {s : State} (hb : s.phase = .busy)
    (hl : latchedCommand s = some (.setField f v)) (hs : s.seqStep = 2) :
    exec (.setField f v) s = .next (advanceStep (busRead s)) :=
  (exec_busy hb hl).trans (setFieldRow_succ hs)

theorem exec_setField_three {f : TimeField} {v : Int} {s : State} (hb : s.phase = .busy)
    (hl : latchedCommand s = some (.setField f v)) (hs : s.seqStep = 3) :
    exec (.setField f v) s =
      .next (respond 0 (busWrite (secondAddr s.params) (clearIntegrity s.params s.rdLatch) s)) :=
  (exec_busy hb hl).trans (setFieldRow_succ hs)

theorem exec_restartIntegrity_zero {s : State} (hb : s.phase = .busy)
    (hl : latchedCommand s = some .restartIntegrity) (hs : s.seqStep = 0) :
    exec .restartIntegrity s = .next (advanceStep (busSetAddr (secondAddr s.params) s)) := by
  rw [exec_busy hb hl, rowOf, restartIntegrityRow, hs, integrityRestart_zero]

theorem exec_restartIntegrity_one {s : State} (hb : s.phase = .busy)
    (hl : latchedCommand s = some .restartIntegrity) (hs : s.seqStep = 1) :
    exec .restartIntegrity s = .next (advanceStep (busRead s)) := by
  rw [exec_busy hb hl, rowOf, restartIntegrityRow, hs, integrityRestart_one]

theorem exec_restartIntegrity_two {s : State} (hb : s.phase = .busy)
    (hl : latchedCommand s = some .restartIntegrity) (hs : s.seqStep = 2) :
    exec .restartIntegrity s =
      .next (respond 0 (busWrite (secondAddr s.params) (clearIntegrity s.params s.rdLatch) s)) := by
  rw [exec_busy hb hl, rowOf, restartIntegrityRow, hs, integrityRestart_two]

theorem exec_getField_zero {f : TimeField} {s : State} (hb : s.phase = .busy)
    (hl : latchedCommand s = some (.getField f)) (hs : s.seqStep = 0) :
    exec (.getField f) s = .next (advanceStep (busSetAddr (s.params.table.row f).addr s)) :=
  (exec_busy hb hl).trans (readRow_zero hs)

theorem exec_getField_one {f : TimeField} {s : State} (hb : s.phase = .busy)
    (hl : latchedCommand s = some (.getField f)) (hs : s.seqStep = 1) :
    exec (.getField f) s =
      .next (respond (fieldResult (s.params.table.row f) (busReadData s)) (busRead s)) :=
  (exec_busy hb hl).trans (readRow_one hs)

theorem exec_getFieldRaw_zero {f : TimeField} {s : State} (hb : s.phase = .busy)
    (hl : latchedCommand s = some (.getFieldRaw f)) (hs : s.seqStep = 0) :
    exec (.getFieldRaw f) s = .next (advanceStep (busSetAddr (s.params.table.row f).addr s)) :=
  (exec_busy hb hl).trans (readRow_zero hs)

theorem exec_getFieldRaw_one {f : TimeField} {s : State} (hb : s.phase = .busy)
    (hl : latchedCommand s = some (.getFieldRaw f)) (hs : s.seqStep = 1) :
    exec (.getFieldRaw f) s = .next (respond (busReadData s).toNat (busRead s)) :=
  (exec_busy hb hl).trans (readRow_one hs)

/-! ### Inversion -/

/-- Every way a row can go: one BusWrite, one BusSetAddr or one BusRead, or a stop. -/
theorem rowOf_cases {i : Instr} {s t : State} (h : rowOf i s = .next t) :
    (∃ a d sel f v after, writeMux s.params sel f v s.rdLatch = some (a, d) ∧ t = after (busWrite a d s) ∧
        (after = advanceStep ∧ i = .setField f v ∧ sel = .field ∧ s.seqStep = 0 ∨
          after = respond 0 ∧ sel = .integrity ∧ s.seqStep = readStep i + 1)) ∨
      (t = advanceStep (busSetAddr (readTarget s.params i) s) ∧ s.seqStep + 1 = readStep i) ∨
      (s.seqStep = readStep i ∧
        (t = advanceStep (busRead s) ∨ ∃ r, t = respond r (busRead s))) := by
  cases i with
  | setField f v =>
    simp only [rowOf, setFieldRow] at h
    split at h
    · rename_i hs
      rcases muxWrite_cases h with ⟨a, d, hm, ht⟩ | ⟨-, ht⟩
      · exact .inl ⟨a, d, .field, f, v, advanceStep, hm, by simpa using ht, .inl ⟨rfl, rfl, rfl, hs⟩⟩
      · cases ht
    · rename_i n hs
      rcases n with _ | _ | _ | n
      · exact .inr (.inl ⟨(by simpa [integrityRestart_zero, readTarget] using h.symm), by simp [hs, readStep]⟩)
      · exact .inr (.inr ⟨by simp [hs, readStep], .inl (by simpa [integrityRestart_one] using h.symm)⟩)
      · refine .inl ⟨secondAddr s.params, clearIntegrity s.params s.rdLatch, .integrity, .second, 0, respond 0, rfl,
          by simpa [integrityRestart_two] using h.symm, .inr ⟨rfl, rfl, by simp [hs, readStep]⟩⟩
      · simp [integrityRestart] at h
  | restartIntegrity =>
    simp only [rowOf, restartIntegrityRow] at h
    generalize hs : s.seqStep = n at h
    rcases n with _ | _ | _ | n
    · exact .inr (.inl ⟨(by simpa [integrityRestart_zero, readTarget] using h.symm), by simp [readStep]⟩)
    · exact .inr (.inr ⟨by simp [readStep], .inl (by simpa [integrityRestart_one] using h.symm)⟩)
    · refine .inl ⟨secondAddr s.params, clearIntegrity s.params s.rdLatch, .integrity, .second, 0, respond 0, rfl,
        by simpa [integrityRestart_two] using h.symm, .inr ⟨rfl, rfl, by simp [readStep]⟩⟩
    · simp [integrityRestart] at h
  | getField f =>
    simp only [rowOf, readRow] at h
    split at h
    · rename_i hs
      exact .inr (.inl ⟨by simpa [muxSetAddr, readTarget] using h.symm, by simp [hs, readStep]⟩)
    · rename_i hs
      exact .inr (.inr ⟨by simp [hs, readStep], .inr ⟨_, by simpa using h.symm⟩⟩)
    · cases h
  | getFieldRaw f =>
    simp only [rowOf, readRow] at h
    split at h
    · rename_i hs
      exact .inr (.inl ⟨by simpa [muxSetAddr, readTarget] using h.symm, by simp [hs, readStep]⟩)
    · rename_i hs
      exact .inr (.inr ⟨by simp [hs, readStep], .inr ⟨_, by simpa using h.symm⟩⟩)
    · cases h

end Sys2Proof.Machine
end

