-- ==== Sys2Proof/Laws/Step.lean ====
section
/-! SUPPORT. What one step can do: the step as an event of an accepted machine, the unit's move by phase, and the next
input as the script gives it. -/

namespace Sys2Proof.Machine

theorem step_of_wf {s : State} (h : s.params.wf = true) :
    step s = runEvent (nextInput s).event (takeInput s) := by
  simp [step, h]

theorem nextInput_cons {s : State} {i : Input} {rest : List Input} (h : s.inputs = i :: rest) :
    nextInput s = i := by
  simp [nextInput, h]

theorem nextInput_nil {s : State} (h : s.inputs = []) :
    nextInput s = ⟨defaultEvent s, freeDraw s.drawCount⟩ := by
  simp [nextInput, h]

/-- BUSY: the unit's move is exec of the latched command (R22, R157). -/
theorem unitStep_busy {s : State} {i : Instr} (hb : s.phase = .busy) (hh : s.busHung = false)
    (hl : latchedCommand s = some i) : unitStep s = exec i s := by
  simp [unitStep, hb, hh, hl]

/-- Ready, with a command on the port that the decoder takes: the unit's move is exec of it (R150). -/
theorem unitStep_ready {s : State} {i : Instr} {c : Command} {cs : List Command} (h : Ready s)
    (hc : s.commands = c :: cs) (hd : decode s.params.valueBits c = .ok i) : unitStep s = exec i (takeCommand s) := by
  simp [unitStep, h.1, h.2, acceptFromPort, hc, hd]

/-- Everything the unit's move can be. -/
theorem unitStep_cases {s : State} {o : Host.Outcome State Fault Refusal} (h : unitStep s = o) :
    o = .next s ∨
      (∃ c cs, Ready s ∧ s.commands = c :: cs ∧
        ((∃ i, decode s.params.valueBits c = .ok i ∧ exec i (takeCommand s) = o) ∨
          ∃ e, decode s.params.valueBits c = .error e ∧ o = .next (raiseFault e (takeCommand s)))) ∨
      (s.phase = .busy ∧ s.busHung = false ∧
        ((∃ i, latchedCommand s = some i ∧ exec i s = o) ∨
          (latchedCommand s = none ∧ o = .refused .latchesNoCommand))) := by
  unfold unitStep at h
  split at h
  · rename_i hp
    split at h
    · exact .inl h.symm
    · rename_i hr
      unfold acceptFromPort at h
      split at h
      · exact .inl h.symm
      · rename_i c cs hc
        split at h
        · rename_i i hd
          exact .inr (.inl ⟨c, cs, ⟨hp, by simpa using hr⟩, hc, .inl ⟨i, hd, h⟩⟩)
        · rename_i e hd
          exact .inr (.inl ⟨c, cs, ⟨hp, by simpa using hr⟩, hc, .inr ⟨e, hd, h.symm⟩⟩)
  · rename_i hp
    split at h
    · exact .inl h.symm
    · rename_i hh
      split at h
      · rename_i i hl
        exact .inr (.inr ⟨hp, by simpa using hh, .inl ⟨i, hl, h⟩⟩)
      · rename_i hl
        exact .inr (.inr ⟨hp, by simpa using hh, .inr ⟨hl, h.symm⟩⟩)
  · exact .inl h.symm

/-- Everything a step of an accepted machine can be, event by event. -/
theorem step_cases {s : State} {o : Host.Outcome State Fault Refusal} (h : step s = o) :
    (s.params.wf = false ∧ (o = .refused .tableIllFormed ∨ o = .refused .portsIllFormed)) ∨
      (s.params.wf = true ∧
        (((nextInput s).event = .advance ∧ unitStep (takeInput s) = o) ∨
          (∃ c, (nextInput s).event = .present c ∧
            o = .next { takeInput s with commands := s.commands ++ [c] }) ∨
          ((nextInput s).event = .acknowledge ∧ o = .next (acknowledgeResponse (takeInput s))) ∨
          ((nextInput s).event = .readResponse ∧ s.rspValid = true ∧ o = .next (takeInput s)) ∨
          ((nextInput s).event = .readResponse ∧ s.rspValid = false ∧ o = .fault .responseUndefined) ∨
          ((nextInput s).event = .stall ∧ o = .next (takeInput s)) ∨
          (∃ landed, (nextInput s).event = .hang landed ∧ o = .next (hangEvent landed (takeInput s))) ∨
          ∃ landed, (nextInput s).event = .reset landed ∧ o = .next (resetEvent landed (takeInput s)))) := by
  unfold step at h
  split at h
  · rename_i hw
    refine .inr ⟨hw, ?_⟩
    generalize (nextInput s).event = e at h
    cases e with
    | advance => exact .inl ⟨rfl, h⟩
    | present c => exact .inr (.inl ⟨c, rfl, h.symm⟩)
    | acknowledge => exact .inr (.inr (.inl ⟨rfl, h.symm⟩))
    | readResponse =>
      cases hr : s.rspValid <;> simp only [runEvent, takeInput_rspValid, hr] at h
      · exact .inr (.inr (.inr (.inr (.inl ⟨rfl, rfl, h.symm⟩))))
      · exact .inr (.inr (.inr (.inl ⟨rfl, rfl, h.symm⟩)))
    | stall => exact .inr (.inr (.inr (.inr (.inr (.inl ⟨rfl, h.symm⟩)))))
    | hang landed => exact .inr (.inr (.inr (.inr (.inr (.inr (.inl ⟨landed, rfl, h.symm⟩))))))
    | reset landed => exact .inr (.inr (.inr (.inr (.inr (.inr (.inr ⟨landed, rfl, h.symm⟩))))))
  · rename_i hw
    split at h
    · exact .inl ⟨by simpa using hw, .inr h.symm⟩
    · exact .inl ⟨by simpa using hw, .inl h.symm⟩

/-- A run goes on from the state its first step answers. -/
theorem run_succ_of_next {k : Nat} {s t : State} (h : step s = .next t) : core.run (k + 1) s = core.run k t := by
  have hs : core.step s = .next t := h
  simp only [Host.Core.run, hs]

/-- Landing a transaction changes nothing but the chip, its pointer and the bus log, which are as the completed step
would leave them (R232). -/
theorem landOutstanding_cases (s : State) :
    landOutstanding s = s ∨
      ∃ i u, s.phase = .busy ∧ latchedCommand s = some i ∧ exec i s = .next u ∧
        landOutstanding s = { s with chip := u.chip, ptr := u.ptr, busLog := u.busLog } := by
  unfold landOutstanding
  split
  · exact .inl rfl
  · exact .inl rfl
  · rename_i hp
    split
    · exact .inl rfl
    · rename_i i hl
      split
      · rename_i u hu
        exact .inr ⟨i, u, hp, hl, hu, rfl⟩
      · exact .inl rfl
      · exact .inl rfl

/-- Landing on demand: nothing, or the outstanding transaction's effect on the chip and the bus (R232). -/
theorem landIf_cases (landed : Bool) (s : State) :
    landIf landed s = s ∨
      ∃ i u, landed = true ∧ s.busHung = false ∧ s.phase = .busy ∧ latchedCommand s = some i ∧ exec i s = .next u ∧
        landIf landed s = { s with chip := u.chip, ptr := u.ptr, busLog := u.busLog } := by
  unfold landIf
  split
  · rename_i h
    rcases landOutstanding_cases s with hs | ⟨i, u, hp, hl, hu, hs⟩
    · exact .inl hs
    · exact .inr ⟨i, u, h.1, h.2, hp, hl, hu, hs⟩
  · exact .inl rfl

/-- A hang outside BUSY changes nothing; while BUSY it marks the transaction, which has landed or not (R207). -/
theorem hangEvent_cases (landed : Bool) (s : State) :
    (s.phase ≠ .busy ∧ hangEvent landed s = s) ∨
      (s.phase = .busy ∧ hangEvent landed s = { landIf landed s with busHung := true }) := by
  unfold hangEvent
  split
  · rename_i h
    exact .inr ⟨h, rfl⟩
  · rename_i h
    exact .inl ⟨h, rfl⟩

end Sys2Proof.Machine
end

