-- ==== Sys2Proof/Laws/Invariant.lean ====
section
/-! SUPPORT. How to show that a state meets the invariant: one lemma per phase; and the count of lost commands. -/

namespace Sys2Proof.Machine

/-- An IDLE state meets the invariant when its table is accepted, its chip is canonical and its control state is at
rest. -/
theorem invariant_of_idle {s : State} (hp : s.phase = .idle) (hw : s.params.wf = true) (hm : Memory.wf s.chip)
    (hs : s.seqStep = 0) (hf : s.faultCode = 0#2) (hh : s.busHung = false) (hn : s.rspLog.length ≤ s.taken)
    (ha : s.acknowledged + (if s.rspValid = true then 1 else 0) ≤ s.rspLog.length) : Invariant s where
  table := hw
  chip := hm
  control := by simpa only [ControlInv, hp] using ⟨hs, hf⟩
  hung := by simp [hh]
  pointer := by simp [PointerInv, hp]
  rewrite := by simp [RewriteInv, hp]
  run := ⟨by simpa [hp] using hn, ha⟩

/-- A FAULT state meets the invariant when it has a code and no response. -/
theorem invariant_of_fault {s : State} (hp : s.phase = .fault) (hw : s.params.wf = true) (hm : Memory.wf s.chip)
    (hs : s.seqStep = 0) (hr : s.rspValid = false) (hf : s.faultCode ≠ 0#2) (hh : s.busHung = false)
    (hn : s.rspLog.length < s.taken) (ha : s.acknowledged ≤ s.rspLog.length) : Invariant s where
  table := hw
  chip := hm
  control := by simpa only [ControlInv, hp] using ⟨hs, hr, hf⟩
  hung := by simp [hh]
  pointer := by simp [PointerInv, hp]
  rewrite := by simp [RewriteInv, hp]
  run := ⟨by simpa [hp] using hn, by simpa [hr] using ha⟩

/-- A BUSY state meets the invariant when it holds a command at one of its steps, with the pointer and `rd_latch` as
that step needs them. -/
theorem invariant_of_busy {s : State} (i : Instr) (hp : s.phase = .busy) (hw : s.params.wf = true)
    (hm : Memory.wf s.chip) (hl : latchedCommand s = some i) (hs : s.seqStep < transactions i)
    (hr : s.rspValid = false) (hf : s.faultCode = 0#2)
    (ht : s.seqStep = readStep i → s.ptr = readTarget s.params i)
    (hd : s.seqStep = readStep i + 1 → s.rdLatch = Memory.readByte s.chip (secondAddr s.params))
    (hn : s.rspLog.length < s.taken) (ha : s.acknowledged ≤ s.rspLog.length) : Invariant s where
  table := hw
  chip := hm
  control := by simpa only [ControlInv, hp] using ⟨hr, hf, i, hl, hs⟩
  hung := fun _ => hp
  pointer := fun j _ _ hj => by
    obtain rfl := Option.some.inj (hl.symm.trans hj)
    exact ht
  rewrite := fun j _ _ _ hj => by
    obtain rfl := Option.some.inj (hl.symm.trans hj)
    exact hd
  run := ⟨by simpa [hp] using hn, by simpa [hr] using ha⟩

/-- How many commands are lost depends on the phase, the response flag and the two counts only. -/
theorem lostCommands_congr {s t : State} (h1 : t.phase = s.phase) (h2 : t.rspValid = s.rspValid)
    (h3 : t.taken = s.taken) (h4 : t.acknowledged = s.acknowledged) : lostCommands t = lostCommands s := by
  rw [lostCommands, lostCommands, pendingCommands, pendingCommands, h1, h2, h3, h4]

/-- A completed run has lost no command (R161). -/
theorem lostCommands_of_completed {s : State} (h : Completed s) : lostCommands s = 0 := by
  rw [lostCommands, h.2.2.2.2.2]
  omega

end Sys2Proof.Machine
end

