-- ==== Sys2Proof/Laws/PerInstr.lean ====
section
/-! SUPPORT. Per-instruction families. TableRow: the encoder's header of each command matches its row of the opcode
table (match and mask of 30_encoding.md R67). -/

namespace Sys2Proof.Laws.TableRow

/-- The match of a command's row (R67). -/
def rowMatch : Instr → Byte
  | .setField _ _ => 0x00#8
  | .getField _ => 0x08#8
  | .getFieldRaw _ => 0x10#8
  | .restartIntegrity => 0x18#8

/-- The mask of a command's row (R67). -/
def rowMask : Instr → Byte
  | .setField _ _ => 0xF8#8
  | .getField _ => 0xF8#8
  | .getFieldRaw _ => 0xF8#8
  | .restartIntegrity => 0xFF#8

/-- The header of the command's encoding lies in its row of the table. -/
def Statement (i : Instr) : Prop := ∀ n : Nat, (encode n i).cmd &&& rowMask i = rowMatch i

theorem setField (f : TimeField) (v : Int) : Statement (.setField f v) := by
  intro n; cases f <;> (simp only [encode, rowMask, rowMatch, TimeField.tag]; decide)

theorem getField (f : TimeField) : Statement (.getField f) := by
  intro n; cases f <;> (simp only [encode, rowMask, rowMatch, TimeField.tag]; decide)

theorem getFieldRaw (f : TimeField) : Statement (.getFieldRaw f) := by
  intro n; cases f <;> (simp only [encode, rowMask, rowMatch, TimeField.tag]; decide)

theorem restartIntegrity : Statement .restartIntegrity := by
  intro n; simp only [encode, rowMask, rowMatch]; decide

end Sys2Proof.Laws.TableRow
end

