-- ==== Sys2Proof/Tests/Slice0.lean ====
section
/-! SUPPORT. The model's own tests: what the well-formedness checks refuse, words written out from the spec's encoding,
one-step results from the spec's test vectors (95_test_vectors.md), and for every statement with hypotheses a state that
meets all of them. -/

open Sys2Proof Sys2Proof.Machine

namespace Sys2Proof.Tests

/-! ### States of the tests -/

/-- The chip of V9 and P1: "`CHIP[0x02] = 0x80` (integrity flag set, as on a brand-new chip); `CHIP[0x03..0x08] =
0x00`". -/
def newChip : Memory := [(2, 0x80#8), (3, 0#8), (4, 0#8), (5, 0#8), (6, 0#8), (7, 0#8), (8, 0#8)]

def passive : Params := { defaultParams with env := .passive }

/-- Right after reset, under PASSIVE, with the chip given. -/
def ready (chip : Memory) : State := { State.reset with params := passive, chip := chip }

/-- BUSY with `i`, the first command taken, at step `n`, the pointer where its BusSetAddr puts it and the Second
register in `rd_latch`. -/
def busyAt (i : Instr) (n : Nat) (chip : Memory) : State :=
  { latchCommand i { ready chip with taken := 1 } with
    seqStep := n
    ptr := readTarget passive i
    rdLatch := Memory.readByte chip 2#8 }

/-- FAULT with ILLEGAL_FIELD. -/
def faulted : State := { ready newChip with phase := .fault, faultCode := 2#2, taken := 1 }

/-- A response pending, and a reset to come. -/
def answered : State :=
  { ready newChip with
    rspValid := true, taken := 1, rspLog := [0], inputs := [⟨.reset false, Draw.zero⟩] }

/-- The draw of a BusWrite that sets the integrity flag. -/
def flagUp : Draw := { Draw.zero with flagDraw := true }

def nextOf (o : Host.Outcome State Fault Refusal) : Option State :=
  match o with
  | .next t => some t
  | .fault _ => none
  | .refused _ => none

def logOf (o : Host.Outcome State Fault Refusal) : Option (List BusTxn) := (nextOf o).map (·.busLog)

def rspOf (o : Host.Outcome State Fault Refusal) : Option (List Nat) := (nextOf o).map (·.rspLog)

def statusOf (o : Host.Outcome State Fault Refusal) : Option (Phase × BitVec 2) := (nextOf o).map statusPort

/-! ### What well-formedness refuses (R64, R122) -/

theorem test_wf_refuses_negative_operand : (Instr.setField .second (-1)).wf 32 = false := by decide

/-- "not expressible on the port" (U17): `2^31`, and on a port of 8 bits `2^7`. -/
theorem test_wf_refuses_operand_the_port_cannot_carry :
    (Instr.setField .second 0x80000000).wf 32 = false ∧ (Instr.setField .second 128).wf 8 = false := by decide

theorem test_wf_accepts_largest_operand :
    (Instr.setField .second 0x7FFFFFFF).wf 32 = true ∧ (Instr.setField .second 127).wf 8 = true := by decide

theorem test_wf1_refuses_min_above_max :
    ({ passive with table := { defaultTable with month := ⟨0x07#8, 0x1F#8, 13, 12, 13, 0⟩ } } : Params).wf = false := by
  decide

theorem test_wf2_refuses_modulus_zero :
    ({ passive with table := { defaultTable with year := ⟨0x08#8, 0xFF#8, 0, 99, 0, 0⟩ } } : Params).wf = false := by
  decide

theorem test_wf2_refuses_modulus_101 :
    ({ passive with table := { defaultTable with year := ⟨0x08#8, 0xFF#8, 0, 99, 101, 0⟩ } } : Params).wf = false := by
  decide

theorem test_wf3_refuses_write_byte_outside_mask :
    ({ passive with table := { defaultTable with weekday := ⟨0x06#8, 0x03#8, 0, 6, 7, 0⟩ } } : Params).wf = false := by
  decide

theorem test_wf4_refuses_integrity_bit_inside_mask : ({ passive with integrityBit := 6 } : Params).wf = false := by
  decide

theorem test_wf5_refuses_shared_address :
    ({ passive with table := { defaultTable with day := ⟨0x04#8, 0x3F#8, 1, 31, 32, 0⟩ } } : Params).wf = false := by
  decide

theorem test_wf6_refuses_result_of_17_bits :
    ({ passive with table := { defaultTable with year := ⟨0x08#8, 0xFF#8, 0, 99, 100, 65437⟩ } } : Params).wf = false := by
  decide

/-- The largest result, 2099, needs 12 bits of `rsp_data` (R8 RESULT_BITS, WF6). -/
theorem test_wf6_reads_the_width_of_the_response :
    ({ passive with resultBits := 12 } : Params).wf = true ∧ ({ passive with resultBits := 11 } : Params).wf = false := by
  decide

/-- No sign bit in OPND; a response narrower than a byte, with a table of small results. -/
theorem test_wf_refuses_narrow_ports :
    ({ passive with valueBits := 0 } : Params).portsOk = false ∧
      ({ passive with resultBits := 7 } : Params).portsOk = false ∧
      ({ passive with valueBits := 1, resultBits := 8 } : Params).portsOk = true := by decide

/-! ### Words written out from the encoding (R60 to R67, V8, P1 to P5) -/

theorem test_decode_set_field_year_2024 :
    decode 32 ⟨0b00000000#8, 0x000007E8⟩ = .ok (.setField .year 2024) := by decide

theorem test_decode_set_field_minute_75 :
    decode 32 ⟨0b00000101#8, 0x0000004B⟩ = .ok (.setField .minute 75) := by decide

theorem test_decode_get_field_month : decode 32 ⟨0b00001001#8, 0xFFFFFFFF⟩ = .ok (.getField .month) := by decide

theorem test_decode_get_field_hour : decode 32 ⟨0b00001100#8, 0⟩ = .ok (.getField .hour) := by decide

theorem test_decode_get_field_raw_hour : decode 32 ⟨0b00010100#8, 0⟩ = .ok (.getFieldRaw .hour) := by decide

theorem test_decode_get_field_raw_weekday :
    decode 32 ⟨0b00010011#8, 0xFFFFFFFF⟩ = .ok (.getFieldRaw .weekday) := by decide

/-- A port of 8 bits carries OPND[7:0]: 0x41 is 65, 0xC1 is negative, and bits above are not there (R8, R60, R64). -/
theorem test_decode_on_a_port_of_8_bits :
    decode 8 ⟨0x06#8, 0x41⟩ = .ok (.setField .second 65) ∧ decode 8 ⟨0x06#8, 0xC1⟩ = .error .negativeValue ∧
      decode 8 ⟨0x06#8, 0xF41⟩ = .ok (.setField .second 65) := by decide

theorem test_decode_restart_integrity : decode 32 ⟨0b00011000#8, 0xFFFFFFFF⟩ = .ok .restartIntegrity := by decide

theorem test_decode_day_tag : decode 32 ⟨0b00001010#8, 0⟩ = .ok (.getField .day) := by decide

theorem test_decode_refuses :
    decode 32 ⟨0x27#8, 0⟩ = .error .reservedBits ∧ decode 32 ⟨0x19#8, 0⟩ = .error .reservedBits ∧
      decode 32 ⟨0x07#8, 0xFFFFFFFF⟩ = .error .illegalField ∧ decode 32 ⟨0x06#8, 0x80000000⟩ = .error .negativeValue := by
  decide

/-- R74's example words: `SET_FIELD Second, 65` is `CMD=0x06 OPND=0x00000041` (R152). -/
theorem test_encode_set_field_second_65 : encode 32 (.setField .second 65) = ⟨0x06#8, 0x00000041⟩ := by decide

theorem test_encode_restart_integrity : encode 32 .restartIntegrity = ⟨0x18#8, 0⟩ := by decide

/-- "Exactly 22 of the 256 headers are legal" (V8). -/
theorem test_twenty_two_legal_headers :
    ((List.range 256).filter fun h =>
      match decode 32 ⟨BitVec.ofNat 8 h, 0⟩ with
      | .ok _ => true
      | .error _ => false).length = 22 := by
  decide +kernel

theorem test_decode_table_word : decodeTableWord 8 0x16 = some (.getFieldRaw .second) := by decide

theorem test_decode_table_word_with_operand : decodeTableWord 40 0x0700 = some (.setField .year 7) := by decide

/-- From reset, a placed word is the first command taken (log entry 3): GET_FIELD Hour is latched and BUSY. -/
theorem test_fetch_word_runs_first :
    (nextOf (step (State.reset.withFetchWord 8 0x0C))).map (fun t => (t.phase, t.cOp, t.cField)) =
      some (.busy, 1#2, 4#3) := by decide

/-! ### The assembler (R74) -/

theorem test_assemble_text :
    assembleText 32 "SET_FIELD Second, 65" = some (some ⟨0x06#8, 0x41⟩) ∧
      assembleText 32 "setField(Second, 0x41) ; set" = some (some ⟨0x06#8, 0x41⟩) ∧
      assembleText 32 "SET_FIELD Second, -1" = some (some ⟨0x06#8, 0xFFFFFFFF⟩) ∧
      assembleText 32 "SET_FIELD Second, 2147483648" = none ∧
      assembleText 32 "restartClockIntegrity()" = some (some ⟨0x18#8, 0⟩) := by decide

theorem test_assembled_form : assembledForm 32 ⟨0x06#8, 0x41⟩ = "CMD=0x06 OPND=0x00000041" := by decide

/-! ### The codec and the field functions (V1, V2, V4, V5, V7) -/

theorem test_encode_bcd : encodeBCD 59 = some 0x59#8 ∧ encodeBCD 80 = some 0x80#8 ∧ encodeBCD 100 = none := by decide

theorem test_decode_bcd :
    decodeBCD 0x99#8 = 99 ∧ decodeBCD 0x1F#8 = 25 ∧ decodeBCD 0xF0#8 = 150 ∧ decodeBCD 0x0A#8 = 10 := by decide

theorem test_write_data :
    writeData defaultTable.second 65 = some 0x05#8 ∧ writeData defaultTable.month 12 = some 0x12#8 ∧
      writeData defaultTable.year 2147483647 = some 0x47#8 ∧ writeData defaultTable.day 100 = some 0x04#8 := by decide

theorem test_field_result :
    fieldResult defaultTable.hour 0x3F#8 = 23 ∧ fieldResult defaultTable.month 0x60#8 = 1 ∧
      fieldResult defaultTable.second 0xA5#8 = 25 ∧ fieldResult defaultTable.year 0xA0#8 = 2099 ∧
      fieldResult defaultTable.weekday 0x09#8 = 1 := by decide

/-! ### One step of each command (V9, P1 to P5) -/

/-- E3: `BusWrite(0x02, 0x05)`. -/
theorem test_set_field_second_65_writes :
    logOf (exec (.setField .second 65) (busyAt (.setField .second 65) 0 newChip)) =
      some [.write 0x51#7 0x02#8 0x05#8] := by decide

/-- P3 command 8: the restart keeps the invalid low bits, `0xFF` becomes `0x7F`, and the response is 0. -/
theorem test_set_field_day_ends_in_restart :
    (nextOf (exec (.setField .day 32) (busyAt (.setField .day 32) 3 [(2, 0xFF#8)]))).map
      (fun t => (t.busLog, t.chip, t.rspLog)) =
      some ([.write 0x51#7 0x02#8 0x7F#8], [(2, 0x7F#8)], [0]) := by decide

/-- E5: raw 0x99 gives 2099. -/
theorem test_get_field_year_99 :
    rspOf (exec (.getField .year) (busyAt (.getField .year) 1 [(8, 0x99#8)])) = some [0x0833] := by decide

/-- V9: GET_FIELD Hour puts `BusSetAddr(0x04)` on the bus. -/
theorem test_get_field_hour_sets_address :
    logOf (exec (.getField .hour) (busyAt (.getField .hour) 0 newChip)) = some [.setAddr 0x51#7 0x04#8] := by decide

/-- V6: Year 0x99 raw is 0x0099, not 2099. -/
theorem test_get_field_raw_year :
    rspOf (exec (.getFieldRaw .year) (busyAt (.getFieldRaw .year) 1 [(8, 0x99#8)])) = some [0x0099] := by decide

/-- P2 command 2: GET_FIELD_RAW Second shows the integrity flag. -/
theorem test_get_field_raw_second :
    rspOf (exec (.getFieldRaw .second) (busyAt (.getFieldRaw .second) 1 [(2, 0x85#8)])) = some [0x0085] := by decide

/-- V7: `0xD9` becomes `0x59`. -/
theorem test_restart_integrity_writes :
    logOf (exec .restartIntegrity (busyAt .restartIntegrity 2 [(2, 0xD9#8)])) =
      some [.write 0x51#7 0x02#8 0x59#8] := by decide

/-- V9: `BusRead() -> 0x80`. -/
theorem test_restart_integrity_reads :
    logOf (exec .restartIntegrity (busyAt .restartIntegrity 1 newChip)) = some [.read 0x51#7 0x80#8] := by decide

/-- P2 command 5: a field write with `flagDraw` sets the flag of the Second register. -/
theorem test_flag_draw :
    (nextOf (exec (.setField .minute 75)
      (withDraw flagUp (busyAt (.setField .minute 75) 0 [(2, 0x05#8), (3, 0x30#8)])))).map (·.chip) =
      some [(2, 0x85#8), (3, 0x15#8)] := by decide

/-- V10: after `CMD = 0x0F`, FAULT with code 2 and no transaction. -/
theorem test_illegal_field_faults :
    statusOf (step { ready newChip with commands := [⟨0x0F#8, 0⟩] }) = some (.fault, 2#2) := by decide

/-- P4 command 2: a negative operand faults with code 3. -/
theorem test_negative_value_faults :
    statusOf (step { ready newChip with commands := [⟨0x06#8, 0xFFFFFFFF⟩] }) = some (.fault, 3#2) := by decide

theorem test_reserved_bits_fault :
    statusOf (step { ready newChip with commands := [⟨0x27#8, 0⟩] }) = some (.fault, 1#2) := by decide

/-- U17: a SET_FIELD operand that no word spells. -/
theorem test_operand_not_expressible :
    exec (.setField .second 0x80000000) (ready newChip) = .refused .operandNotExpressible := by rfl

/-- R45, R207: a hung field write of Hour that has reached the chip, and one that has not; the unit is stuck. -/
theorem test_hung_write_landed :
    (nextOf (step { busyAt (.setField .hour 7) 0 newChip with inputs := [⟨.hang true, Draw.zero⟩] })).map
      (fun t => (t.busLog, Memory.readByte t.chip 4#8, t.phase, t.seqStep)) =
      some ([.write 0x51#7 0x04#8 0x07#8], 0x07#8, .busy, 0) := by decide

theorem test_hung_write_not_landed :
    (nextOf (step { busyAt (.setField .hour 7) 0 newChip with inputs := [⟨.hang false, Draw.zero⟩] })).map
      (fun t => (t.busLog, t.chip, t.busHung)) = some ([], newChip, true) := by decide

/-- V10: in FAULT a command is held. -/
theorem test_faulted_unit_holds_command :
    (nextOf (step { faulted with commands := [⟨0x08#8, 0⟩] })).map (fun t => (t.phase, t.commands)) =
      some (.fault, [⟨0x08#8, 0⟩]) := by decide

/-- U12: reading `rsp_data` with no response pending faults. -/
theorem test_read_without_response_faults :
    step { ready newChip with inputs := [⟨.readResponse, Draw.zero⟩] } = .fault .responseUndefined := by rfl

/-! ### States that meet the hypotheses of the statements -/

theorem test_ready_invariant (cs : List Command) (is : List Input) :
    Invariant { ready newChip with commands := cs, inputs := is } :=
  invariant_of_idle rfl (by decide : passive.wf = true) (by decide : Memory.wf newChip) rfl rfl rfl (by decide : 0 ≤ 0) (by decide : 0 ≤ 0)

theorem test_busy_invariant (is : List Input) :
    Invariant { busyAt (.setField .hour 7) 0 newChip with inputs := is } :=
  invariant_of_busy (.setField .hour 7) rfl (by decide : passive.wf = true) (by decide : Memory.wf newChip)
    (by refine (latchedCommand_congr (s := busyAt (.setField .hour 7) 0 newChip) ?_ ?_ ?_ ?_).trans (by decide) <;> rfl)
    (by decide : 0 < 4) rfl rfl (fun h => absurd h (by decide : (0 : Nat) ≠ 2)) (fun h => absurd h (by decide : (0 : Nat) ≠ 3)) (by decide : 0 < 1) (by decide : 0 ≤ 0)

theorem test_rewrite_step_invariant : Invariant (busyAt (.setField .hour 7) 3 newChip) :=
  invariant_of_busy (.setField .hour 7) rfl (by decide) (by decide) (by decide) (by decide) rfl rfl
    (fun h => absurd h (by decide)) (fun _ => by decide) (by decide) (by decide)

theorem test_read_step_invariant : Invariant (busyAt (.getField .year) 1 newChip) :=
  invariant_of_busy (.getField .year) rfl (by decide) (by decide) (by decide) (by decide) rfl rfl
    (fun _ => by decide) (fun h => absurd h (by decide)) (by decide) (by decide)

theorem test_fault_invariant : Invariant faulted :=
  invariant_of_fault rfl (by decide) (by decide) rfl rfl (by decide) rfl (by decide) (by decide)

theorem test_answered_invariant : Invariant answered :=
  invariant_of_idle rfl (by decide) (by decide) rfl rfl rfl (by decide) (by decide)

theorem test_witness_EncodeBcdPacksTensAndUnits : (0 : Nat) ≤ 99 ∧ (99 : Nat) ≤ 99 ∧ encodeBCD 99 = some 0x99#8 := by
  decide

theorem test_witness_EncoderRefuses :
    ((-1 : Int) < 0 ∧ (99 : Int) < 100) ∧ passive.wf = true ∧ (0 : Int) ≤ 0 ∧ (0 : Int) ≤ 0x7FFFFFFF := by decide

theorem test_witness_CodecLaws :
    (99 : Nat) ≤ 99 ∧ 99 < decodeBCD 0xA0#8 ∧ ¬99 < decodeBCD 0x99#8 ∧
      (validBCD 0x99#8 = true ∧ decodeBCD 0x99#8 = decodeBCD 0x99#8) ∧ (98 : Nat) < 99 := by decide

theorem test_witness_MachineWithIllFormedTable :
    ({ ready newChip with params := { passive with integrityBit := 6 } } : State).params.tableOk = false ∧
      ({ ready newChip with params := { passive with valueBits := 0 } } : State).params.tableOk = true ∧
      ({ ready newChip with params := { passive with valueBits := 0 } } : State).params.valueBits < 1 := by decide

theorem test_witness_WriteData :
    passive.wf = true ∧ (0 : Int) ≤ 0 ∧ (0 : Int) ≤ 0x7FFFFFFF := by decide

theorem test_witness_ClearIntegrity : passive.integrityBit = 7 := by decide

theorem test_witness_YearWrite :
    (2000 : Nat) ≤ 2000 ∧ writeData defaultTable.year 2000 = writeData defaultTable.year 0 := by decide

/-- Month, one byte below MIN, one above MAX, and MIN and MAX themselves. -/
theorem test_witness_ReadPath :
    defaultTable.month.min ≤ defaultTable.month.max ∧
      decodeBCD (0x00#8 &&& defaultTable.month.mask) < defaultTable.month.min ∧
      defaultTable.month.max < decodeBCD (0x13#8 &&& defaultTable.month.mask) ∧
      decodeBCD (0x01#8 &&& defaultTable.month.mask) = defaultTable.month.min ∧
      decodeBCD (0x12#8 &&& defaultTable.month.mask) = defaultTable.month.max := by decide

theorem test_witness_DecodeOfEncode :
    (Instr.setField .second 0x7FFFFFFF).wf 32 = true ∧ (Instr.setField .second 0).wf 32 = true ∧
      (Instr.getField .year).wf 32 = true := by decide

theorem test_witness_DecodedWord :
    decode 32 ⟨0x06#8, 0x7FFFFFFF⟩ = .ok (.setField .second 0x7FFFFFFF) ∧
      decode 32 ⟨0x18#8, 0xFFFFFFFF⟩ = .ok .restartIntegrity := by decide

theorem test_witness_LegalHeaders :
    1 ≤ 32 ∧ (0x7FFFFFFF).testBit 31 = false ∧ (0x80000000).testBit 31 = true ∧ 0x19#8 ≤ 0x19#8 ∧ 0x19#8 ≤ 0xFF#8 := by decide

theorem test_witness_AssembledLine :
    (-(2 ^ 31) - 1 < -(2 ^ 31 : Int) ∧ (2 ^ 31 : Int) ≤ 2 ^ 31) ∧
      (-(2 ^ 31) ≤ -(2 ^ 31 : Int) ∧ -(2 ^ 31 : Int) < 2 ^ 31 ∧ -(2 ^ 31 : Int) < 0) ∧
      (-(2 ^ 31) ≤ (2 ^ 31 - 1 : Int) ∧ (2 ^ 31 - 1 : Int) < 2 ^ 31 ∧ 0 ≤ (2 ^ 31 - 1 : Int)) := by decide

/-- Ready, with operands at both ends of the range: the hypotheses of AcceptanceLatchesTheCommand, SetFieldCompletes,
GetFieldCompletes, GetFieldRawCompletes and RestartIntegrityCompletes. -/
theorem test_witness_ready :
    (ready newChip).phase = .idle ∧ (ready newChip).rspValid = false ∧ (ready newChip).params.wf = true ∧
      (ready newChip).params.env = .passive ∧ (0 : Int) ≤ 0 ∧
      (0x7FFFFFFF : Int) < (2 ^ ((ready newChip).params.valueBits - 1) : Nat) := by decide

theorem test_witness_AcceptanceLatches :
    (Instr.getField .hour).wf 32 = true ∧ ∃ t, exec (.getField .hour) (ready newChip) = .next t := ⟨rfl, _, rfl⟩

/-- A pending response, FAULT, and another command in progress. -/
theorem test_witness_CommandsAreHeld :
    (({ ready newChip with rspValid := true } : State).phase = .idle ∧
      ({ ready newChip with rspValid := true } : State).rspValid = true) ∧ faulted.phase = .fault ∧
      ((busyAt .restartIntegrity 0 newChip).phase = .busy ∧
        latchedCommand (busyAt .restartIntegrity 0 newChip) ≠ some (.getField .hour)) := by decide

theorem test_witness_CommandsAreHeld_step :
    ({ ready newChip with rspValid := true, inputs := [advanceWith Draw.zero] } : State).params.wf = true ∧
      (nextInput { ready newChip with rspValid := true, inputs := [advanceWith Draw.zero] }).event = .advance ∧
      faulted.params.wf = true ∧ (nextInput faulted).event = .advance := by decide

theorem test_witness_FaultEntry :
    Invariant { ready newChip with commands := [⟨0x0F#8, 0⟩], inputs := [] } ∧
      (nextInput { ready newChip with commands := [⟨0x0F#8, 0⟩], inputs := [] }).event = .advance ∧
      decode 32 ⟨0x0F#8, 0⟩ = .error .illegalField :=
  ⟨test_ready_invariant _ _, by decide, by decide⟩

theorem test_witness_FaultEntry_only_way :
    ∃ t, step { ready newChip with commands := [⟨0x06#8, 0x80000000⟩] } = .next t ∧ t.phase = .fault :=
  ⟨_, rfl, rfl⟩

theorem test_witness_NegativeOperand :
    (-1 : Int) < 0 ∧ (ready newChip).phase = .idle ∧
      (ready newChip).rspValid = false := by decide

theorem test_witness_OnlyResetLeavesFault :
    faulted.phase = .fault ∧ (∃ t, step faulted = .next t) ∧
      ∃ t, step { faulted with inputs := [⟨.reset false, Draw.zero⟩] } = .next t := ⟨rfl, ⟨_, rfl⟩, _, rfl⟩

theorem test_witness_GetFieldResponseIsInRange :
    (busyAt (.getField .year) 1 newChip).params.wf = true ∧ (busyAt (.getField .year) 1 newChip).phase = .busy ∧
      latchedCommand (busyAt (.getField .year) 1 newChip) = some (.getField .year) ∧
      (busyAt (.getField .year) 1 newChip).seqStep = 1 := by decide

/-- Two chips that differ in the integrity flag only. -/
theorem test_witness_GetSecondDoesNotReveal :
    (busyAt (.getField .second) 1 [(2, 0x05#8)]).params = (busyAt (.getField .second) 1 [(2, 0x85#8)]).params ∧
      latchedCommand (busyAt (.getField .second) 1 [(2, 0x05#8)]) = some (.getField .second) ∧
      latchedCommand (busyAt (.getField .second) 1 [(2, 0x85#8)]) = some (.getField .second) ∧
      busReadData (busyAt (.getField .second) 1 [(2, 0x05#8)]) ≠ busReadData (busyAt (.getField .second) 1 [(2, 0x85#8)]) ∧
      clearIntegrity passive (busReadData (busyAt (.getField .second) 1 [(2, 0x05#8)])) =
        clearIntegrity passive (busReadData (busyAt (.getField .second) 1 [(2, 0x85#8)])) := by decide

/-- Under FREE, at the read step (also the hypothesis of FreeChipMayHoldAnyByteAfterAWrite). -/
theorem test_witness_FreeRead :
    ({ latchCommand (.getFieldRaw .day) State.reset with seqStep := 1 } : State).params.env = .free ∧
      ({ latchCommand (.getFieldRaw .day) State.reset with seqStep := 1 } : State).phase = .busy ∧
      latchedCommand { latchCommand (.getFieldRaw .day) State.reset with seqStep := 1 } = some (.getFieldRaw .day) ∧
      8 ≤ State.reset.params.resultBits := by decide

theorem test_witness_PassiveChip : (ready newChip).params.env = .passive := by decide

/-- Acceptance, the address step, the read step, and a held command. -/
theorem test_witness_ReadCommandsFrame :
    (∃ t, exec (.getField .hour) (ready newChip) = .next t) ∧
      (∃ t, exec (.getField .hour) (busyAt (.getField .hour) 0 newChip) = .next t) ∧
      (∃ t, exec (.getFieldRaw .hour) (busyAt (.getFieldRaw .hour) 1 newChip) = .next t) ∧
      ∃ t, exec (.getField .hour) faulted = .next t := ⟨⟨_, rfl⟩, ⟨_, rfl⟩, ⟨_, rfl⟩, _, rfl⟩

/-- Acceptance, a fault at acceptance, the read step, the last step, and a held command. -/
theorem test_witness_WriteCommandsUnitFrame :
    (∃ t, exec (.setField .hour 7) (ready newChip) = .next t) ∧
      (∃ t, exec (.setField .hour (-1)) (ready newChip) = .next t) ∧
      (∃ t, exec (.setField .hour 7) (busyAt (.setField .hour 7) 2 newChip) = .next t) ∧
      (∃ t, exec .restartIntegrity (busyAt .restartIntegrity 2 newChip) = .next t) ∧
      ∃ t, exec .restartIntegrity faulted = .next t := ⟨⟨_, rfl⟩, ⟨_, rfl⟩, ⟨_, rfl⟩, ⟨_, rfl⟩, _, rfl⟩

/-- The field write of Hour and of Second itself, both integrity rewrites, and the steps that write nothing. -/
theorem test_witness_WriteCommandsChipFrame :
    (busyAt (.setField .hour 7) 0 newChip).params.env = .passive ∧
      (busyAt (.setField .hour 7) 0 newChip).phase = .busy ∧
      latchedCommand (busyAt (.setField .hour 7) 0 newChip) = some (.setField .hour 7) ∧
      writeMux passive .field .hour 7 0#8 = some (4#8, 7#8) ∧
      writeMux passive .field .second 7 0#8 = some (2#8, 7#8) ∧
      writeMux passive .integrity .second 0 0xFF#8 = some (2#8, 0x7F#8) := by decide

theorem test_witness_WriteCommandsChipFrame_steps :
    (∃ t, exec (.setField .hour 7) (busyAt (.setField .hour 7) 0 newChip) = .next t) ∧
      (∃ t, exec (.setField .second 7) (busyAt (.setField .second 7) 0 newChip) = .next t) ∧
      (∃ t, exec (.setField .hour 7) (busyAt (.setField .hour 7) 3 newChip) = .next t) ∧
      (∃ t, exec .restartIntegrity (busyAt .restartIntegrity 2 newChip) = .next t) ∧
      (∃ t, exec (.setField .hour 7) (busyAt (.setField .hour 7) 1 newChip) = .next t) ∧
      (∃ t, exec (.setField .hour 7) (busyAt (.setField .hour 7) 2 newChip) = .next t) ∧
      (∃ t, exec .restartIntegrity (busyAt .restartIntegrity 0 newChip) = .next t) ∧
      ∃ t, exec .restartIntegrity (busyAt .restartIntegrity 1 newChip) = .next t :=
  ⟨⟨_, rfl⟩, ⟨_, rfl⟩, ⟨_, rfl⟩, ⟨_, rfl⟩, ⟨_, rfl⟩, ⟨_, rfl⟩, ⟨_, rfl⟩, _, rfl⟩

theorem test_witness_StepRunsTheCommandOnThePort :
    (ready newChip).params.wf = true ∧
      (nextInput { ready newChip with commands := [⟨0x0C#8, 0⟩] }).event = .advance ∧
      (ready newChip).phase = .idle ∧ (ready newChip).rspValid = false ∧
      decode 32 ⟨0x0C#8, 0⟩ = .ok (.getField .hour) := by decide

theorem test_witness_StepRunsTheLatchedCommand :
    (busyAt (.setField .hour 7) 0 newChip).params.wf = true ∧
      (nextInput (busyAt (.setField .hour 7) 0 newChip)).event = .advance ∧
      (busyAt (.setField .hour 7) 0 newChip).busHung = false ∧
      latchedCommand (busyAt (.setField .hour 7) 0 newChip) = some (.setField .hour 7) := by decide

/-- A step of a BUSY state that meets the invariant (EveryStepKeepsTheInvariant, NoStepStopsTheMachine,
AtMostOneTransactionPerStepAndOnlyToTheTable, StepCounterOnlyAdvances, ParametersNeverChange). -/
theorem test_witness_step_from_invariant :
    Invariant (busyAt (.setField .hour 7) 3 newChip) ∧ (busyAt (.setField .hour 7) 3 newChip).phase = .busy ∧
      ∃ t, step (busyAt (.setField .hour 7) 3 newChip) = .next t ∧ t.phase = .idle :=
  ⟨test_rewrite_step_invariant, rfl, _, rfl, rfl⟩

/-- Each of the three last steps of SET_FIELD. -/
theorem test_witness_SetFieldEndsInTheIntegrityRestart :
    ∀ n ∈ [0, 1, 2], n ≤ 2 ∧ (busyAt (.setField .hour 7) (n + 1) newChip).phase = .busy ∧
      latchedCommand (busyAt (.setField .hour 7) (n + 1) newChip) = some (.setField .hour 7) ∧
      (busyAt (.setField .hour 7) (n + 1) newChip).seqStep = n + 1 := by decide

theorem test_witness_AcceptedCommandCompletes :
    Invariant { busyAt (.setField .hour 7) 0 newChip with inputs := [] } ∧
      (busyAt (.setField .hour 7) 0 newChip).busHung = false ∧
      latchedCommand (busyAt (.setField .hour 7) 0 newChip) = some (.setField .hour 7) :=
  ⟨test_busy_invariant [], rfl, by decide⟩

theorem test_witness_HungBus :
    Invariant { busyAt (.getField .year) 1 newChip with busHung := true } ∧
      (nextInput { busyAt (.getField .year) 1 newChip with busHung := true }).event = .advance :=
  ⟨invariant_of_busy (.getField .year) rfl (by decide : passive.wf = true) (by decide : Memory.wf newChip)
    (by decide : latchedCommand (busyAt (.getField .year) 1 newChip) = some (.getField .year)) (by decide : 1 < 2) rfl rfl
    (fun _ => by decide) (fun h => absurd h (by decide)) (by decide : 0 < 1) (by decide : 0 ≤ 0), by decide⟩

/-- Reset with the outstanding field write landed, and not. -/
theorem test_witness_ResetAborts :
    (nextInput { busyAt (.setField .hour 7) 0 newChip with inputs := [⟨.reset true, Draw.zero⟩] }).event =
        .reset true ∧
      (nextInput { busyAt (.setField .hour 7) 0 newChip with inputs := [⟨.reset false, Draw.zero⟩] }).event =
        .reset false ∧
      (busyAt (.setField .hour 7) 0 newChip).params.wf = true ∧
      (busyAt (.setField .hour 7) 0 newChip).phase = .busy := by decide

theorem test_witness_OutstandingTransaction :
    latchedCommand (busyAt (.setField .hour 7) 0 newChip) = some (.setField .hour 7) ∧ ∃ u, exec (.setField .hour 7)
      (takeInput { busyAt (.setField .hour 7) 0 newChip with inputs := [⟨.reset true, Draw.zero⟩] }) = .next u :=
  ⟨by decide, _, rfl⟩

/-- V10's last line, with and without a flag draw. -/
theorem test_witness_AbortedSetField :
    Invariant { busyAt (.setField .hour 7) 0 newChip with
        inputs := [⟨.advance, flagUp⟩, ⟨.reset false, Draw.zero⟩] } ∧
      Invariant { busyAt (.setField .hour 7) 0 newChip with
        inputs := [⟨.advance, Draw.zero⟩, ⟨.reset false, Draw.zero⟩] } ∧
      (busyAt (.setField .hour 7) 0 newChip).params.env = .passive ∧
      (busyAt (.setField .hour 7) 0 newChip).busHung = false ∧
      latchedCommand (busyAt (.setField .hour 7) 0 newChip) = some (.setField .hour 7) :=
  ⟨test_busy_invariant _, test_busy_invariant _, rfl, rfl, by decide⟩

theorem test_witness_ResponsePort :
    (ready newChip).params.wf = true ∧
      (nextInput { ready newChip with rspValid := true }).event = .acknowledge ∧
      (nextInput { ready newChip with inputs := [⟨.acknowledge, Draw.zero⟩] }).event = .acknowledge ∧
      (ready newChip).rspValid = false ∧
      (nextInput { ready newChip with rspValid := true, inputs := [⟨.readResponse, Draw.zero⟩] }).event =
        .readResponse ∧
      (nextInput { ready newChip with inputs := [⟨.readResponse, Draw.zero⟩] }).event = .readResponse := by decide

/-- The witness of FaultEntry also meets the hypotheses of FaultingCommandLeavesThePort. -/
theorem test_witness_FaultingCommandLeavesThePort :
    (ready newChip).params.wf = true ∧ (ready newChip).phase = .idle ∧ (ready newChip).rspValid = false ∧
      (nextInput { ready newChip with commands := [⟨0x0F#8, 0⟩] }).event = .advance ∧
      decode 32 ⟨0x0F#8, 0⟩ = .error .illegalField := by decide

theorem test_witness_HostPresentsAndBusWaits :
    (nextInput { ready newChip with inputs := [⟨.present ⟨0x18#8, 0⟩, Draw.zero⟩] }).event =
        .present ⟨0x18#8, 0⟩ ∧
      (nextInput { ready newChip with inputs := [⟨.stall, Draw.zero⟩] }).event = .stall ∧
      (nextInput { ready newChip with inputs := [⟨.hang true, Draw.zero⟩] }).event = .hang true := by decide

/-- SET_FIELD with five events and RESTART_INTEGRITY with four. -/
theorem test_witness_IntegrityFlagIsClear :
    (Invariant { ready newChip with
        commands := [⟨0x04#8, 7⟩]
        inputs := advanceWith Draw.zero :: [flagUp, Draw.zero, Draw.zero, Draw.zero].map advanceWith ++ [] } ∧
      decode 32 ⟨0x04#8, 7⟩ = .ok (.setField .hour 7) ∧
      [flagUp, Draw.zero, Draw.zero, Draw.zero].length = transactions (.setField .hour 7)) ∧
    (Invariant { ready newChip with
        commands := [⟨0x18#8, 0⟩]
        inputs := advanceWith Draw.zero :: [Draw.zero, Draw.zero, Draw.zero].map advanceWith ++ [] } ∧
      decode 32 ⟨0x18#8, 0⟩ = .ok .restartIntegrity ∧
      [Draw.zero, Draw.zero, Draw.zero].length = transactions .restartIntegrity) :=
  ⟨⟨test_ready_invariant _ _, by decide, by decide⟩, test_ready_invariant _ _, by decide, by decide⟩

/-- A field write with a flag draw, from a Second register whose flag is 0. -/
theorem test_witness_IntegrityFlagIsSetOnly :
    Invariant { busyAt (.setField .hour 7) 0 [(2, 0x05#8)] with inputs := [advanceWith flagUp] } ∧
      integrityFlag passive (Memory.readByte [(2, 0x05#8)] passive.table.second.addr) = false ∧
      ∃ t, step { busyAt (.setField .hour 7) 0 [(2, 0x05#8)] with inputs := [advanceWith flagUp] } = .next t ∧
        integrityFlag passive (Memory.readByte t.chip passive.table.second.addr) = true :=
  ⟨invariant_of_busy (.setField .hour 7) rfl (by decide : passive.wf = true)
    (by decide : Memory.wf [(2, 0x05#8)])
    (by decide : latchedCommand (busyAt (.setField .hour 7) 0 [(2, 0x05#8)]) = some (.setField .hour 7))
    (by decide : 0 < 4) rfl rfl (fun h => absurd h (by decide : (0 : Nat) ≠ 2))
    (fun h => absurd h (by decide : (0 : Nat) ≠ 3)) (by decide : 0 < 1) (by decide : 0 ≤ 0), by decide, _, rfl, by decide⟩

/-- SET_FIELD Month, 13 stores 0x00; a later ready state whose Month register still holds 0x00. -/
theorem test_witness_GetFieldReadsBack :
    Invariant { ready newChip with
        commands := [⟨0x01#8, 13⟩]
        inputs := [Draw.zero, flagUp, Draw.zero, Draw.zero, Draw.zero].map advanceWith ++ [] } ∧
      decode 32 ⟨0x01#8, 13⟩ = .ok (.setField .month 13) ∧
      Invariant { ready newChip with
        commands := [⟨0x09#8, 0⟩], inputs := [Draw.zero, Draw.zero, Draw.zero].map advanceWith ++ [] } ∧
      decode 32 ⟨0x09#8, 0⟩ = .ok (.getField .month) ∧
      ∃ t, core.run 5 { ready newChip with
          commands := [⟨0x01#8, 13⟩]
          inputs := [Draw.zero, flagUp, Draw.zero, Draw.zero, Draw.zero].map advanceWith ++ [] } = .next t ∧
        Memory.readByte newChip 7#8 &&& 0x1F#8 = Memory.readByte t.chip 7#8 &&& 0x1F#8 :=
  ⟨test_ready_invariant _ _, by decide, test_ready_invariant _ _, by decide, _, rfl, by decide⟩

/-- E3: 65 and 5, the remainder mod 60. -/
theorem test_witness_SetFieldOfRemainder :
    Invariant { ready newChip with
        commands := encode 32 (.setField .second 65) :: []
        inputs := [Draw.zero, Draw.zero, Draw.zero, Draw.zero, Draw.zero].map advanceWith ++ [] } ∧
      (0 : Int) ≤ 65 ∧ (65 : Int) < (2 ^ (passive.valueBits - 1) : Nat) ∧
      (5 : Int) = ((65 : Int).toNat % (passive.table.row .second).mod : Nat) :=
  ⟨test_ready_invariant _ _, by decide, by decide, by decide⟩

/-- The last command of a run, none lost before it; and the run it completes (R161 case 1). -/
theorem test_witness_AcceptedCommandCompletes_run :
    (busyAt .restartIntegrity 2 newChip).commands = [] ∧ lostCommands (busyAt .restartIntegrity 2 newChip) = 0 ∧
      ∃ u, core.run 2 (busyAt .restartIntegrity 2 newChip) = .next u ∧ u.phase = .idle ∧ u.rspValid = false ∧
        u.rspLog.length = u.taken ∧ u.acknowledged = u.taken := ⟨rfl, by decide, _, rfl, rfl, rfl, rfl, rfl⟩

theorem test_witness_OperandThePortCannotCarry :
    (2 ^ ((ready newChip).params.valueBits - 1) : Nat) ≤ (0x80000000 : Int) ∧ (ready newChip).phase = .idle ∧
      (ready newChip).rspValid = false := by decide

theorem test_witness_HungTransaction :
    (nextInput { busyAt (.setField .hour 7) 0 newChip with inputs := [⟨.hang true, Draw.zero⟩] }).event = .hang true ∧
      (nextInput { busyAt (.setField .hour 7) 0 newChip with inputs := [⟨.hang false, Draw.zero⟩] }).event =
        .hang false ∧
      latchedCommand (busyAt (.setField .hour 7) 0 newChip) = some (.setField .hour 7) ∧
      ∃ u, exec (.setField .hour 7)
        (takeInput { busyAt (.setField .hour 7) 0 newChip with inputs := [⟨.hang true, Draw.zero⟩] }) = .next u :=
  ⟨by decide, by decide, by decide, _, rfl⟩

/-- A reset of a BUSY unit, a command that faults, a faulted unit, a reset that takes a response back, and a completion. -/
theorem test_witness_RunThatLostACommand :
    (Invariant { busyAt (.setField .hour 7) 0 newChip with inputs := [⟨.reset false, Draw.zero⟩] } ∧
      ∃ t, step { busyAt (.setField .hour 7) 0 newChip with inputs := [⟨.reset false, Draw.zero⟩] } = .next t ∧
        0 < lostCommands t ∧ t.phase = .idle) ∧
    (Invariant { ready newChip with commands := [⟨0x0F#8, 0⟩], inputs := [] } ∧
      ∃ t, step { ready newChip with commands := [⟨0x0F#8, 0⟩], inputs := [] } = .next t ∧ t.phase = .fault) ∧
    (Invariant faulted ∧ 0 < lostCommands faulted) ∧
    (Invariant answered ∧ lostCommands answered = 0 ∧
      ∃ t, step answered = .next t ∧ 0 < lostCommands t ∧ t.phase = .idle ∧ t.rspValid = false ∧ t.rspLog.length = t.taken) ∧
    (Invariant (busyAt (.setField .hour 7) 3 newChip) ∧
      ∃ t, step (busyAt (.setField .hour 7) 3 newChip) = .next t ∧ t.phase = .idle ∧ lostCommands t = 0) :=
  ⟨⟨test_busy_invariant _, _, rfl, by decide, rfl⟩, ⟨test_ready_invariant _ _, _, rfl, rfl⟩,
    ⟨test_fault_invariant, by decide⟩, ⟨test_answered_invariant, by decide, _, rfl, by decide, rfl, rfl, rfl⟩,
    test_rewrite_step_invariant, _, rfl, rfl, by decide⟩

end Sys2Proof.Tests
end

section
/-! PROOFS. The state family (10_state.md): what a bus transaction leaves of the unit, what one step can answer, and from
the two the statements about every step. -/

namespace Sys2Proof.Machine

/-! ### The chip after a transaction (R33, R34) -/

/-- Under FREE the chip makes the changes drawn for the transaction (R30). -/
theorem settleChip_free {s : State} (h : s.params.env = .free) (m : Memory) :
    settleChip s m = Memory.drift s.draw.drift m := by
  simp [settleChip, h]

/-- A register after PASSIVE's `flagDraw` (R33). -/
theorem readByte_flagAfterWrite {s : State} (h : s.params.env = .passive) (a x : Byte) (m : Memory) :
    Memory.readByte (flagAfterWrite s a m) x =
      if x = secondAddr s.params ∧ a ≠ x ∧ s.draw.flagDraw = true then setIntegrity s.params (Memory.readByte m x)
      else Memory.readByte m x := by
  unfold flagAfterWrite
  by_cases hx : x = secondAddr s.params
  · subst hx
    by_cases hd : a ≠ secondAddr s.params ∧ s.draw.flagDraw = true
    · simp [h, hd]
    · rw [if_neg (fun hc => hd hc.2), if_neg (fun hc => hd hc.2)]
  · rw [if_neg (fun hc : x = _ ∧ _ => hx hc.1)]
    split
    · exact Memory.readByte_writeByte_other _ _ _ _ hx
    · rfl

/-- A register after a PASSIVE BusWrite (R33). -/
theorem readByte_busWrite_passive {s : State} (h : s.params.env = .passive) (a d x : Byte) :
    Memory.readByte (busWrite a d s).chip x =
      if x = a then d
      else if x = secondAddr s.params ∧ s.draw.flagDraw = true then setIntegrity s.params (Memory.readByte s.chip x)
      else Memory.readByte s.chip x := by
  rw [busWrite_chip, settleChip_passive h, readByte_flagAfterWrite h]
  by_cases hx : x = a
  · simp [hx]
  · simp [hx, Ne.symm hx, Memory.readByte_writeByte_other]

/-! ### The step table's numbers (R157), the fault codes, and the addresses on the bus (R35) -/

theorem readStep_pos (i : Instr) : 0 < readStep i := by cases i <;> simp [readStep]

theorem readStep_lt_transactions (i : Instr) : readStep i < transactions i := by
  cases i <;> simp [readStep, transactions]

theorem transactions_pos (i : Instr) : 0 < transactions i := (Nat.zero_le _).trans_lt (readStep_lt_transactions i)

/-- Every cause has a code other than NONE's (R201). -/
theorem faultCodeOf_ne_zero (e : FaultCause) : faultCodeOf e ≠ 0#2 := by cases e <;> simp [faultCodeOf]

/-- Every command reads a register of the table (R35, R130). -/
theorem tableAddr_readTarget (p : Params) (i : Instr) : tableAddr p (readTarget p i) := by
  cases i with
  | setField f v => exact ⟨.second, rfl⟩
  | getField f => exact ⟨f, rfl⟩
  | getFieldRaw f => exact ⟨f, rfl⟩
  | restartIntegrity => exact ⟨.second, rfl⟩

/-- Every BusWrite goes to a register of the table (R35, R129). -/
theorem tableAddr_of_writeMux {p : Params} {sel : MuxSelect} {f : TimeField} {v : Int} {rd a d : Byte}
    (h : writeMux p sel f v rd = some (a, d)) : tableAddr p a := by
  rcases writeMux_cases h with ⟨-, rfl, -⟩ | ⟨-, rfl, -⟩
  · exact ⟨f, rfl⟩
  · exact ⟨.second, rfl⟩

/-! ### What a transaction leaves of the unit

A bus transaction touches the chip, its pointer, the bus log and `rd_latch`, and nothing else of the state. -/

/-- `u` is `s` but for the chip, its pointer, the bus log and `rd_latch`, and its chip is canonical if that of `s` is. -/
structure KeepsUnit (s u : State) : Prop where
  eq : u = { s with rdLatch := u.rdLatch, chip := u.chip, ptr := u.ptr, busLog := u.busLog }
  chip : Memory.wf s.chip → Memory.wf u.chip

/-- `u` is `s` after one transaction, to the device `P_DEV_ADDR` and to a register of the table (R35, R40). -/
structure Transacts (s u : State) : Prop extends KeepsUnit s u where
  log : ∃ x : BusTxn, u.busLog = s.busLog ++ [x] ∧ x.device = s.params.devAddr ∧
    ∀ a, x.register = some a → tableAddr s.params a

theorem transacts_busWrite {s : State} {a : Byte} (d : Byte) (h : tableAddr s.params a) :
    Transacts s (busWrite a d s) where
  eq := rfl
  chip := busWrite_chip_wf a d s
  log := ⟨.write s.params.devAddr a d, rfl, rfl, fun _ hx => Option.some.inj hx ▸ h⟩

theorem transacts_busSetAddr {s : State} {a : Byte} (h : tableAddr s.params a) : Transacts s (busSetAddr a s) where
  eq := rfl
  chip := busSetAddr_chip_wf a s
  log := ⟨.setAddr s.params.devAddr a, rfl, rfl, fun _ hx => Option.some.inj hx ▸ h⟩

theorem transacts_busRead (s : State) : Transacts s (busRead s) where
  eq := rfl
  chip := busRead_chip_wf s
  log := ⟨.read s.params.devAddr (busReadData s), rfl, rfl, fun _ hx => nomatch hx⟩

namespace KeepsUnit

variable {s u : State} (h : KeepsUnit s u)
include h

theorem phase : u.phase = s.phase := (congrArg State.phase h.eq :)
theorem seqStep : u.seqStep = s.seqStep := (congrArg State.seqStep h.eq :)
theorem cOp : u.cOp = s.cOp := (congrArg State.cOp h.eq :)
theorem cField : u.cField = s.cField := (congrArg State.cField h.eq :)
theorem cValue : u.cValue = s.cValue := (congrArg State.cValue h.eq :)
theorem rspValid : u.rspValid = s.rspValid := (congrArg State.rspValid h.eq :)
theorem faultCode : u.faultCode = s.faultCode := (congrArg State.faultCode h.eq :)
theorem params : u.params = s.params := (congrArg State.params h.eq :)
theorem busHung : u.busHung = s.busHung := (congrArg State.busHung h.eq :)
theorem rspLog : u.rspLog = s.rspLog := (congrArg State.rspLog h.eq :)
theorem taken : u.taken = s.taken := (congrArg State.taken h.eq :)
theorem acknowledged : u.acknowledged = s.acknowledged := (congrArg State.acknowledged h.eq :)

theorem latchedCommand : latchedCommand u = Machine.latchedCommand s :=
  latchedCommand_congr h.cOp h.cField h.cValue h.params

theorem controlInv (hc : ControlInv s) : ControlInv u := by
  rwa [ControlInv, h.phase, h.seqStep, h.rspValid, h.faultCode, h.latchedCommand]

theorem runInv (hr : RunInv s) : RunInv u := by
  rwa [RunInv, h.phase, h.rspLog, h.taken, h.rspValid, h.acknowledged]

end KeepsUnit

theorem KeepsUnit.refl (s : State) : KeepsUnit s s := ⟨rfl, id⟩

/-- A transaction makes the bus log one longer. -/
theorem Transacts.log_length {s u : State} (h : Transacts s u) : u.busLog.length = s.busLog.length + 1 := by
  obtain ⟨x, hx, -, -⟩ := h.log
  simp [hx]

/-- The step of a row is one transaction, after which the unit advances or responds (R22, R151, R157). -/
theorem rowOf_transacts {i : Instr} {s t : State} (h : rowOf i s = .next t) :
    ∃ u, Transacts s u ∧ (t = advanceStep u ∨ ∃ r, t = respond r u) := by
  rcases rowOf_cases h with ⟨a, d, sel, f, v, after, hm, rfl, hafter⟩ | ⟨rfl, -⟩ | ⟨-, hread⟩
  · refine ⟨_, transacts_busWrite d (tableAddr_of_writeMux hm), ?_⟩
    rcases hafter with ⟨rfl, -⟩ | ⟨rfl, -⟩
    · exact .inl rfl
    · exact .inr ⟨0, rfl⟩
  · exact ⟨_, transacts_busSetAddr (tableAddr_readTarget _ i), .inl rfl⟩
  · exact ⟨_, transacts_busRead s, hread⟩

/-- Only the writing commands go on after their BusRead; they have one step more, and read Second (R155, R157). -/
theorem writes_of_rowOf_advances_after_read {i : Instr} {s : State} (h : rowOf i s = .next (advanceStep (busRead s)))
    (hb : s.phase = .busy) (hs : s.seqStep = readStep i) :
    readStep i + 1 < transactions i ∧ readTarget s.params i = secondAddr s.params := by
  have not_responds : ∀ r, Host.Outcome.next (respond r (busRead s)) ≠
      (.next (advanceStep (busRead s)) : Host.Outcome State Fault Refusal) := fun r he => by
    have hp : Phase.idle = s.phase := congrArg State.phase (Host.Outcome.next.inj he)
    rw [hb] at hp
    cases hp
  cases i with
  | setField f v => exact ⟨by simp [readStep, transactions], rfl⟩
  | restartIntegrity => exact ⟨by simp [readStep, transactions], rfl⟩
  | getField f => exact absurd ((readRow_one hs).symm.trans h) (not_responds _)
  | getFieldRaw f => exact absurd ((readRow_one hs).symm.trans h) (not_responds _)

/-- Landing an outstanding transaction: nothing, or one transaction when the event says that it landed (R232). -/
theorem landIf_transacts (landed : Bool) (s : State) :
    landIf landed s = s ∨ (landed = true ∧ Transacts s (landIf landed s)) := by
  rcases landIf_cases landed s with hs | ⟨i, w, hl, -, hb, hi, hw, hs⟩
  · exact .inl hs
  · rw [exec_busy hb hi] at hw
    obtain ⟨u, hu, hend⟩ := rowOf_transacts hw
    have hsame : w.chip = u.chip ∧ w.busLog = u.busLog := by
      rcases hend with rfl | ⟨r, rfl⟩ <;> exact ⟨rfl, rfl⟩
    rw [hs, hsame.1, hsame.2]
    exact .inr ⟨hl, ⟨rfl, hu.chip⟩, hu.log⟩

theorem landIf_keepsUnit (landed : Bool) (s : State) : KeepsUnit s (landIf landed s) := by
  rcases landIf_transacts landed s with hs | ⟨-, hs⟩
  · rw [hs]
    exact .refl s
  · exact hs.toKeepsUnit

/-- The bus log after a landing: as it was, or one landed transaction longer. -/
theorem landIf_busLog (landed : Bool) (s : State) :
    (landIf landed s).busLog = s.busLog ∨ (landed = true ∧ Transacts s (landIf landed s)) :=
  (landIf_transacts landed s).imp_left (congrArg State.busLog)

/-! ### What one step can answer -/

/-- The next states a step can answer, one constructor per thing that can happen. -/
inductive Moves (s : State) : State → Prop
  /-- Nothing moves but the input is taken. -/
  | rest (he : ∀ landed, (nextInput s).event ≠ .reset landed) : Moves s (takeInput s)
  | present (c : Command) (he : (nextInput s).event = .present c) :
      Moves s { takeInput s with commands := s.commands ++ [c] }
  | acknowledge (he : (nextInput s).event = .acknowledge) : Moves s (acknowledgeResponse (takeInput s))
  /-- The command on the port is accepted (R150). -/
  | accept (i : Instr) (c : Command) (cs : List Command) (he : (nextInput s).event = .advance) (hr : Ready s)
      (hc : s.commands = c :: cs) (hd : decode s.params.valueBits c = .ok i) :
      Moves s (latchCommand i (takeCommand (takeInput s)))
  /-- The command on the port faults (R203). -/
  | fault (e : FaultCause) (c : Command) (cs : List Command) (he : (nextInput s).event = .advance) (hr : Ready s)
      (hc : s.commands = c :: cs) (hd : decode s.params.valueBits c = .error e) :
      Moves s (raiseFault e (takeCommand (takeInput s)))
  /-- The current step of the latched command (R157). -/
  | row (i : Instr) (t : State) (he : (nextInput s).event = .advance) (hb : s.phase = .busy) (hh : s.busHung = false)
      (hl : latchedCommand s = some i) (ht : rowOf i (takeInput s) = .next t) : Moves s t
  | hang (landed : Bool) (he : (nextInput s).event = .hang landed) (hb : s.phase = .busy) :
      Moves s { landIf landed (takeInput s) with busHung := true }
  | reset (landed : Bool) (he : (nextInput s).event = .reset landed) :
      Moves s (resetUnit (landIf landed (takeInput s)))

/-- The unit's move is at rest, an acceptance, a fault, or a step of the latched command. -/
theorem moves_of_unitStep {s t : State} (he : (nextInput s).event = .advance)
    (h : unitStep (takeInput s) = .next t) : Moves s t := by
  rcases unitStep_cases h with ht | ⟨c, cs, hr, hc, hport⟩ | ⟨hb, hh, hlatch⟩
  · obtain rfl := Host.Outcome.next.inj ht
    exact .rest (by simp [he])
  · rcases hport with ⟨i, hd, hx⟩ | ⟨e, hd, ht⟩
    · rw [exec_ready i (s := takeCommand (takeInput s)) hr,
        acceptCommand_of_wf (s := takeCommand (takeInput s)) (wf_of_decode hd)] at hx
      obtain rfl := Host.Outcome.next.inj hx
      exact .accept i c cs he hr hc hd
    · obtain rfl := Host.Outcome.next.inj ht
      exact .fault e c cs he hr hc hd
  · rcases hlatch with ⟨i, hl, hx⟩ | ⟨-, hx⟩
    · rw [exec_busy hb hl] at hx
      exact .row i t he hb hh hl hx
    · cases hx

/-- Every next state that a step answers is one of `Moves`. -/
theorem moves_of_step {s t : State} (h : step s = .next t) : Moves s t := by
  rcases step_cases h with ⟨-, ht | ht⟩ | ⟨-, hevent⟩
  · cases ht
  · cases ht
  · rcases hevent with ⟨he, hu⟩ | ⟨c, he, ht⟩ | ⟨he, ht⟩ | ⟨he, -, ht⟩ | ⟨-, -, ht⟩ | ⟨he, ht⟩ | ⟨landed, he, ht⟩ |
      ⟨landed, he, ht⟩
    · exact moves_of_unitStep he hu
    · exact Host.Outcome.next.inj ht ▸ .present c he
    · exact Host.Outcome.next.inj ht ▸ .acknowledge he
    · exact Host.Outcome.next.inj ht ▸ .rest (by simp [he])
    · cases ht
    · exact Host.Outcome.next.inj ht ▸ .rest (by simp [he])
    · rw [Host.Outcome.next.inj ht]
      rcases hangEvent_cases landed (takeInput s) with ⟨-, hs⟩ | ⟨hb, hs⟩
      · rw [hs]
        exact .rest (by simp [he])
      · rw [hs]
        exact .hang landed he hb
    · exact Host.Outcome.next.inj ht ▸ .reset landed he

/-! ### Every move keeps the invariant -/

namespace Invariant

/-- A BUSY state that meets the invariant has no response and no fault code, and its command is at a step of its row. -/
theorem busy {s : State} {i : Instr} (h : Invariant s) (hb : s.phase = .busy) (hl : latchedCommand s = some i) :
    s.rspValid = false ∧ s.faultCode = 0#2 ∧ s.seqStep < transactions i := by
  have hc := h.control
  simp only [ControlInv, hb] at hc
  obtain ⟨hr, hf, j, hj, hs⟩ := hc
  obtain rfl := Option.some.inj (hl.symm.trans hj)
  exact ⟨hr, hf, hs⟩

/-- A unit that is ready stands at step 0 with no fault code and no hung bus. -/
theorem ready {s : State} (h : Invariant s) (hr : Ready s) :
    s.seqStep = 0 ∧ s.faultCode = 0#2 ∧ s.busHung = false := by
  have hc := h.control
  simp only [ControlInv, hr.1] at hc
  refine ⟨hc.1, hc.2, Bool.eq_false_iff.mpr fun hh => ?_⟩
  have hb := h.hung hh
  rw [hr.1] at hb
  cases hb

/-- The counts of a run, whatever the phase and the response port. -/
theorem counts {s : State} (h : Invariant s) : s.rspLog.length ≤ s.taken ∧ s.acknowledged ≤ s.rspLog.length :=
  ⟨(Nat.le_add_right _ _).trans h.run.1, (Nat.le_add_right _ _).trans h.run.2⟩

/-- A BUSY unit's command has been taken and has not responded. -/
theorem busy_counts {s : State} (h : Invariant s) (hb : s.phase = .busy) : s.rspLog.length < s.taken := by
  have := h.run.1
  simp only [hb] at this
  exact this

/-- The events, the draws and the command port are not the invariant's concern. -/
theorem takeInput {s : State} (h : Invariant s) : Invariant (takeInput s) :=
  ⟨h.table, h.chip, h.control, h.hung, h.pointer, h.rewrite, h.run⟩

theorem present {s : State} (h : Invariant s) (cs : List Command) : Invariant { s with commands := cs } :=
  ⟨h.table, h.chip, h.control, h.hung, h.pointer, h.rewrite, h.run⟩

theorem acknowledge {s : State} (h : Invariant s) : Invariant (acknowledgeResponse s) where
  table := h.table
  chip := h.chip
  control := by
    have hc := h.control
    unfold ControlInv at hc ⊢
    rw [acknowledgeResponse_phase]
    split at hc
    · exact hc
    · obtain ⟨hs, -, hf⟩ := hc
      exact ⟨hs, rfl, hf⟩
    · exact ⟨rfl, hc.2⟩
  hung := h.hung
  pointer := h.pointer
  rewrite := h.rewrite
  run := by
    obtain ⟨htaken, hack⟩ := h.run
    refine ⟨htaken, ?_⟩
    simp only [acknowledgeResponse_acknowledged, acknowledgeResponse_rspValid, acknowledgeResponse_rspLog]
    split at hack <;> simp_all

theorem accept {s : State} {i : Instr} (h : Invariant s) (hr : Ready s) (hw : i.wf s.params.valueBits = true) :
    Invariant (latchCommand i (takeCommand s)) := by
  obtain ⟨-, hf, -⟩ := h.ready hr
  obtain ⟨htaken, hack⟩ := h.counts
  exact invariant_of_busy i rfl h.table h.chip (latchedCommand_latchCommand hw) (transactions_pos i) hr.2 hf
    (fun hs => absurd hs (readStep_pos i).ne) (fun hs => absurd hs (Nat.succ_ne_zero _).symm)
    (Nat.lt_succ_of_le htaken) hack

theorem fault {s : State} (e : FaultCause) (h : Invariant s) (hr : Ready s) :
    Invariant (raiseFault e (takeCommand s)) := by
  obtain ⟨hs, -, hh⟩ := h.ready hr
  obtain ⟨htaken, hack⟩ := h.counts
  exact invariant_of_fault rfl h.table h.chip hs hr.2 (faultCodeOf_ne_zero e) hh (Nat.lt_succ_of_le htaken) hack

/-- Completion keeps the invariant (R151). -/
theorem respond {s u : State} {i : Instr} (r : Nat) (h : Invariant s) (hb : s.phase = .busy) (hh : s.busHung = false)
    (hl : latchedCommand s = some i) (hu : KeepsUnit s u) : Invariant (respond r u) := by
  obtain ⟨-, hf, -⟩ := h.busy hb hl
  obtain ⟨-, hack⟩ := h.counts
  have htaken := h.busy_counts hb
  refine invariant_of_idle rfl (hu.params ▸ h.table) (hu.chip h.chip) rfl (hu.faultCode.trans hf)
    (hu.busHung.trans hh) ?_ ?_
  · simpa [hu.rspLog, hu.taken] using htaken
  · simpa [hu.rspLog, hu.acknowledged] using hack

/-- A step that does not complete its command keeps the invariant, if the command has a further step and finds the
pointer and `rd_latch` there as it needs them (R32, R156). -/
theorem advance {s u : State} {i : Instr} (h : Invariant s) (hb : s.phase = .busy)
    (hl : latchedCommand s = some i) (hu : KeepsUnit s u) (hlt : s.seqStep + 1 < transactions i)
    (hptr : s.seqStep + 1 = readStep i → u.ptr = readTarget s.params i)
    (hrd : s.params.env = .passive → s.seqStep = readStep i →
      u.rdLatch = Memory.readByte u.chip (secondAddr s.params)) : Invariant (advanceStep u) where
  table := hu.params ▸ h.table
  chip := hu.chip h.chip
  control := by
    obtain ⟨hr, hf, -⟩ := h.busy hb hl
    simp only [ControlInv, advanceStep_phase, hu.phase, hb]
    exact ⟨hu.rspValid.trans hr, hu.faultCode.trans hf, i, hu.latchedCommand.trans hl, by simpa [hu.seqStep] using hlt⟩
  hung := fun _ => hu.phase.trans hb
  pointer := fun j _ _ hj hs => by
    obtain rfl := Option.some.inj (hl.symm.trans (hu.latchedCommand.symm.trans hj))
    simpa [hu.params] using hptr (by simpa [hu.seqStep] using hs)
  rewrite := fun j he _ _ hj hs => by
    obtain rfl := Option.some.inj (hl.symm.trans (hu.latchedCommand.symm.trans hj))
    have he' : s.params.env = .passive := hu.params ▸ he
    simpa [hu.params] using hrd he' (by simpa [hu.seqStep] using hs)
  run := hu.runInv h.run

/-- The step of a row keeps the invariant (R157). -/
theorem row {s t : State} {i : Instr} (h : Invariant s) (hb : s.phase = .busy) (hh : s.busHung = false)
    (hl : latchedCommand s = some i) (ht : rowOf i s = .next t) : Invariant t := by
  have hread := readStep_lt_transactions i
  rcases rowOf_cases ht with ⟨a, d, sel, f, v, after, hm, rfl, hafter⟩ | ⟨rfl, hs⟩ | ⟨hs, rfl | ⟨r, rfl⟩⟩
  · have hu := (transacts_busWrite d (tableAddr_of_writeMux hm)).toKeepsUnit
    rcases hafter with ⟨rfl, rfl, -, hs⟩ | ⟨rfl, -, -⟩
    · refine h.advance hb hl hu ?_ ?_ ?_ <;> simp [hs, transactions, readStep]
    · exact h.respond 0 hb hh hl hu
  · have hu := (transacts_busSetAddr (tableAddr_readTarget s.params i)).toKeepsUnit
    exact h.advance hb hl hu (by omega) (fun _ => rfl) (fun _ hs' => by omega)
  · obtain ⟨hlt, htarget⟩ := writes_of_rowOf_advances_after_read ht hb hs
    refine h.advance hb hl (transacts_busRead s).toKeepsUnit (by omega) (fun hs' => by omega) fun he _ => ?_
    rw [busRead_rdLatch, busReadData_passive he, busRead_chip, settleChip_passive he, h.pointer i hb hh hl hs, htarget]
  · exact h.respond r hb hh hl (transacts_busRead s).toKeepsUnit

/-- A hang keeps the invariant: nothing further happens on the bus, so nothing is asked of the pointer (R207). -/
theorem hang {s u : State} (h : Invariant s) (hb : s.phase = .busy) (hu : KeepsUnit s u) :
    Invariant { u with busHung := true } where
  table := hu.params ▸ h.table
  chip := hu.chip h.chip
  control := hu.controlInv h.control
  hung := fun _ => hu.phase.trans hb
  pointer := fun _ _ hh => nomatch hh
  rewrite := fun _ _ _ hh => nomatch hh
  run := hu.runInv h.run

/-- Reset keeps the invariant, whatever has landed (R230, R232). -/
theorem reset {s u : State} (h : Invariant s) (hu : KeepsUnit s u) : Invariant (resetUnit u) := by
  obtain ⟨htaken, hack⟩ := h.counts
  refine invariant_of_idle rfl (hu.params ▸ h.table) (hu.chip h.chip) rfl rfl rfl ?_ ?_
  · simpa [hu.rspLog, hu.taken] using htaken
  · simpa [hu.rspLog, hu.acknowledged] using hack

end Invariant

/-- Settles O40: each move keeps the invariant. -/
theorem everyStepKeepsTheInvariant : Obligations.EveryStepKeepsTheInvariant := by
  intro s t h hstep
  have h' := h.takeInput
  cases moves_of_step hstep with
  | rest _ => exact h'
  | present c _ => exact h'.present _
  | acknowledge _ => exact h'.acknowledge
  | accept i c cs _ hr _ hd => exact h'.accept hr (wf_of_decode hd)
  | fault e c cs _ hr => exact h'.fault e hr
  | row i t he hb hh hl ht => exact h'.row hb hh hl ht
  | hang landed he hb => exact h'.hang hb (landIf_keepsUnit landed _)
  | reset landed he => exact h'.reset (landIf_keepsUnit landed _)

/-! ### The chip under either environment -/

/-- Settles O31: the byte drawn is the byte read, and the port holds it. -/
theorem freeReadReturnsAnyByte : Obligations.FreeReadReturnsAnyByte := by
  intro f s b henv hbits hb hs hl
  refine ⟨_, exec_getFieldRaw_one (s := withDraw _ s) hb ((latchedCommand_withDraw _ s).trans hl) hs, rfl, ?_⟩
  have hread : ∀ e, busReadData (withDraw e s) = e.readByte := fun e => busReadData_free (s := withDraw e s) henv
  rw [respond_rspData, hread]
  exact zeroExtend_byte hbits b

/-- Settles O32: the chip changes that register to that byte after the write. -/
theorem freeChipMayHoldAnyByteAfterAWrite : Obligations.FreeChipMayHoldAnyByteAfterAWrite := by
  intro s a d x b henv
  refine ⟨{ s.draw with drift := [(x, b)] }, ?_⟩
  have hsettle : ∀ e m, settleChip (withDraw e s) m = Memory.drift e.drift m :=
    fun e => settleChip_free (s := withDraw e s) henv
  rw [busWrite_chip, hsettle]
  exact Memory.readByte_writeByte_same _ x b

/-- Settles O33, from what a register holds after a PASSIVE BusWrite. -/
theorem passiveChipIsARegisterFile : Obligations.PassiveChipIsARegisterFile := by
  intro s henv
  refine ⟨readByte_busWrite_passive henv, fun a => ⟨rfl, settleChip_passive henv s.chip⟩, busReadData_passive henv,
    settleChip_passive henv s.chip, fun b => ?_⟩
  exact ⟨⟨{ s.draw with ptrAfter := b }, rfl⟩, fun a d => ⟨{ s.draw with ptrAfter := b }, rfl⟩⟩

/-! ### Every step -/

/-- Settles O42: only a step of a row and a landing issue a transaction. -/
theorem atMostOneTransactionPerStepAndOnlyToTheTable :
    Obligations.AtMostOneTransactionPerStepAndOnlyToTheTable := by
  intro s t hstep
  cases moves_of_step hstep with
  | rest _ => exact .inl rfl
  | present c _ => exact .inl rfl
  | acknowledge _ => exact .inl rfl
  | accept i c cs _ hr => exact .inl rfl
  | fault e c cs _ hr => exact .inl rfl
  | row i t he hb hh hl ht =>
    obtain ⟨u, hu, rfl | ⟨r, rfl⟩⟩ := rowOf_transacts ht
    · exact .inr hu.log
    · exact .inr hu.log
  | hang landed he hb =>
    exact (landIf_busLog landed (takeInput s)).imp_right fun hu => hu.2.log
  | reset landed he =>
    exact (landIf_busLog landed (takeInput s)).imp_right fun hu => hu.2.log

/-- Settles O43: a row advances or responds with its transaction, a hang keeps the step, and a reset ends it. -/
theorem stepCounterOnlyAdvances : Obligations.StepCounterOnlyAdvances := by
  intro s t hb hstep
  have not_ready : ¬Ready s := fun hr => by simp [hr.1] at hb
  cases moves_of_step hstep with
  | rest _ => exact .inl ⟨hb, rfl, rfl, rfl, rfl, .inl ⟨rfl, .inl rfl⟩⟩
  | present c _ => exact .inl ⟨hb, rfl, rfl, rfl, rfl, .inl ⟨rfl, .inl rfl⟩⟩
  | acknowledge _ => exact .inl ⟨hb, rfl, rfl, rfl, rfl, .inl ⟨rfl, .inl rfl⟩⟩
  | accept i c cs _ hr => exact absurd hr not_ready
  | fault e c cs _ hr => exact absurd hr not_ready
  | row i t he _ hh hl ht =>
    obtain ⟨u, hu, rfl | ⟨r, rfl⟩⟩ := rowOf_transacts ht
    · exact .inl ⟨hu.phase.trans hb, hu.cOp, hu.cField, hu.cValue, hu.rspLog,
        .inr ⟨congrArg (· + 1) hu.seqStep, hu.log_length⟩⟩
    · exact .inr ⟨rfl, rfl, .inr ⟨he, rfl, by simp [hu.rspLog], hu.log_length⟩⟩
  | hang landed he _ =>
    have hu := landIf_keepsUnit landed (takeInput s)
    refine .inl ⟨hu.phase.trans hb, hu.cOp, hu.cField, hu.cValue, hu.rspLog, .inl ⟨hu.seqStep, ?_⟩⟩
    exact (landIf_busLog landed (takeInput s)).imp_right fun ⟨hl, ht⟩ => ⟨hl ▸ he, rfl, ht.log_length⟩
  | reset landed he => exact .inr ⟨rfl, rfl, .inl ⟨landed, he⟩⟩

/-- Settles O44: no move writes the parameters. -/
theorem parametersNeverChange : Obligations.ParametersNeverChange := by
  intro s t hstep
  cases moves_of_step hstep with
  | rest _ => rfl
  | present c _ => rfl
  | acknowledge _ => rfl
  | accept i c cs _ hr => rfl
  | fault e c cs _ hr => rfl
  | row i t he hb hh hl ht =>
    obtain ⟨u, hu, rfl | ⟨r, rfl⟩⟩ := rowOf_transacts ht
    · exact hu.params
    · exact hu.params
  | hang landed he hb => exact (landIf_keepsUnit landed (takeInput s)).params
  | reset landed he => exact (landIf_keepsUnit landed (takeInput s)).params

/-! ### Single events -/

/-- With no response pending an acknowledge changes nothing (R24). -/
theorem acknowledgeResponse_of_not_valid {s : State} (h : s.rspValid = false) : acknowledgeResponse s = s := by
  cases s
  cases h
  rfl

/-- Settles O51, event by event. -/
theorem responsePortAcknowledgeAndRead : Obligations.ResponsePortAcknowledgeAndRead := by
  intro s hw
  rw [step_of_wf hw]
  refine ⟨fun he hr => ?_, fun he hr => ?_, fun he hr => ?_, fun he hr => ?_⟩
  · simp [he, runEvent, acknowledgeResponse, hr]
  · rw [he, runEvent, acknowledgeResponse_of_not_valid (s := takeInput s) hr]
  · simp [he, runEvent, hr]
  · simp [he, runEvent, hr]

/-- Settles O38: the unit's move while BUSY is exec of the latched command. -/
theorem stepRunsTheLatchedCommand : Obligations.StepRunsTheLatchedCommand := by
  intro s i hw he hb hh hl
  rw [step_of_wf hw, he]
  exact unitStep_busy hb hh ((latchedCommand_takeInput s).trans hl)

end Sys2Proof.Machine
end

section
/-! PROOFS. The memory family (20_memory.md): what a transaction that hangs leaves of the chip and the bus (R45, R207). -/

namespace Sys2Proof.Machine

/-- The outstanding transaction of a BUSY unit lands with the effect its completed step would have (R232). -/
theorem landOutstanding_of_exec {s u : State} {i : Instr} (hb : s.phase = .busy) (hl : latchedCommand s = some i)
    (hx : exec i s = .next u) : landOutstanding s = { s with chip := u.chip, ptr := u.ptr, busLog := u.busLog } := by
  simp only [landOutstanding, hb, hl, hx]

/-- A transaction said not to have landed has no effect. -/
@[simp] theorem landIf_false (s : State) : landIf false s = s := rfl

/-- One said to have landed has its effect, unless the bus already hung. -/
theorem landIf_true {s : State} (hh : s.busHung = false) : landIf true s = landOutstanding s := if_pos ⟨rfl, hh⟩

/-- A hang while BUSY marks the transaction, which has landed or not (R207). -/
theorem hangEvent_busy {s : State} (landed : Bool) (hb : s.phase = .busy) :
    hangEvent landed s = { landIf landed s with busHung := true } := if_pos hb

/-- Settles O59: the hang event lands the outstanding transaction or leaves it, and marks the bus hung. -/
theorem hungTransactionReachedTheChipOrNot : Obligations.HungTransactionReachedTheChipOrNot := by
  intro s landed i u hw he hb hh hl hx
  have hl' : latchedCommand (takeInput s) = some i := (latchedCommand_takeInput s).trans hl
  have hstep : step s = .next { landIf landed (takeInput s) with busHung := true } := by
    rw [step_of_wf hw, he, runEvent, hangEvent_busy landed (s := takeInput s) hb]
  refine ⟨fun hland => ?_, fun hland => ?_⟩
  · rw [hstep, hland, landIf_true (s := takeInput s) hh, landOutstanding_of_exec (s := takeInput s) hb hl' hx]
  · rw [hstep, hland, landIf_false]

end Sys2Proof.Machine
end

section
/-! PROOFS. The encoding family (30_encoding.md): decoder and encoder agree in both directions, every header has its
verdict, and what the assembler writes is what the decoder reads; beside them what exec makes of an operand the decoder
never gives (log entry 14), and the events of the host and the bus that leave the unit alone. -/

namespace Sys2Proof.Machine

/-! ### Decode and encode (R65, R67) -/

/-- Settles O14: the encoder's words are those the decoder's laws speak of. -/
theorem decodeOfEncodeIsTheCommand : Obligations.DecodeOfEncodeIsTheCommand := by
  intro n i hw
  cases i with
  | setField f v =>
    obtain ⟨h0, hlt⟩ := Instr.wf_setField.mp hw
    have hk : v.toNat < 2 ^ (n - 1) := by omega
    rw [encode, operandWord_of_nonneg h0 hlt, decode_setField_natCast n f hk, Int.toNat_of_nonneg h0]
  | getField f => exact decode_getField n f 0
  | getFieldRaw f => exact decode_getFieldRaw n f 0
  | restartIntegrity => exact decode_restartIntegrity n 0

/-- The word of an operand that is not negative is the bits that spelled it (R64). -/
theorem operandWord_operandValue {n o : Nat} (h : ¬operandValue n o < 0) :
    operandWord n (operandValue n o) = operandBits n o := by
  obtain ⟨hv, hlt⟩ := operandValue_of_nonneg h
  rw [operandWord_of_nonneg (by omega) (by omega), hv, Int.toNat_natCast]

/-- Settles O15, command by command: only SET_FIELD reads OPND. -/
theorem decodedWordIsTheEncodingUpToIgnoredOperand : Obligations.DecodedWordIsTheEncodingUpToIgnoredOperand := by
  intro n c i h
  refine ⟨wf_of_decode h, ?_⟩
  rcases decode_ok_cases h with ⟨f, rfl, hn, hc⟩ | ⟨f, rfl, hc⟩ | ⟨f, rfl, hc⟩ | ⟨rfl, hc⟩
  · exact ⟨hc.symm, .inl ⟨f, _, rfl, operandWord_operandValue hn⟩⟩
  · exact ⟨hc.symm, .inr fun o => hc ▸ decode_getField n f o⟩
  · exact ⟨hc.symm, .inr fun o => hc ▸ decode_getFieldRaw n f o⟩
  · exact ⟨hc.symm, .inr fun o => hc ▸ decode_restartIntegrity n o⟩

/-! ### The 256 headers (R65, R202) -/

/-- The sign of an operand is the top bit the port carries (R64). -/
theorem operandValue_neg_iff_testBit {n : Nat} (hn : 1 ≤ n) (o : Nat) :
    operandValue n o < 0 ↔ o.testBit (n - 1) = true := by
  have htop : (operandBits n o).testBit (n - 1) = o.testBit (n - 1) := by
    rw [operandBits, Nat.testBit_mod_two_pow, decide_eq_true (by omega : n - 1 < n), Bool.true_and]
  have hbits : operandBits n o < 2 ^ (n - 1 + 1) := by
    rw [Nat.sub_add_cancel hn]
    exact Nat.mod_lt _ (Nat.two_pow_pos n)
  rw [operandValue_neg, ← htop]
  exact ⟨fun hle => Nat.testBit_of_two_pow_le_and_two_pow_add_one_gt hle hbits, Nat.ge_two_pow_of_testBit⟩

/-- A field's header is its operation's first header plus the tag (R60, R67). -/
theorem header_add_tag (f : TimeField) :
    0x00#8 + f.tag.setWidth 8 = headerOf 0b00#2 f.tag ∧ 0x08#8 + f.tag.setWidth 8 = headerOf 0b01#2 f.tag ∧
      0x10#8 + f.tag.setWidth 8 = headerOf 0b10#2 f.tag := by
  cases f <;> decide

/-- Tag 7 names no field in the three commands that take one (R63, R120). -/
theorem decode_illegalField (n o : Nat) {op : BitVec 2} (h : op ≠ 0b11#2) :
    decode n ⟨headerOf op 0b111#3, o⟩ = .error .illegalField := by
  have htag : TimeField.ofTag 0b111#3 = none := TimeField.ofTag_eq_none.mpr rfl
  simp [decode, h, htag]

/-- A reserved bit, or a tag beside RESTART_INTEGRITY's operation (R61, R65). -/
theorem decode_reservedBits (n : Nat) {c : Command} (h : c.rsv ≠ 0#3 ∨ c.op = 0b11#2 ∧ c.tag ≠ 0#3) :
    decode n c = .error .reservedBits := by
  rcases h with hr | ⟨ho, ht⟩
  · simp [decode, hr]
  · simp [decode, ho, ht]

/-- Past RESTART_INTEGRITY's header 0x18 a header that sets no bit of CMD[7:5] carries a tag beside its operation. -/
theorem reserved_of_header_ge {c : Command} (h : 0x19#8 ≤ c.cmd) : c.rsv ≠ 0#3 ∨ c.op = 0b11#2 ∧ c.tag ≠ 0#3 := by
  have hfields : ∀ (op : BitVec 2) (tag : BitVec 3), 0x19#8 ≤ headerOf op tag → op = 0b11#2 ∧ tag ≠ 0#3 := by decide
  by_cases hr : c.rsv = 0#3
  · exact .inr (hfields c.op c.tag ((headerOf_op_tag hr).symm ▸ h))
  · exact .inl hr

/-- Settles O17, by the header's operation. -/
theorem legalHeadersAreTheTwentyTwo : Obligations.LegalHeadersAreTheTwentyTwo := by
  intro n hn
  refine ⟨fun f o hbit => ?_, fun f o hbit => ?_, fun f o => ?_, fun f o => ?_, decode_restartIntegrity n,
    fun o => ?_, fun h o hh => decode_reservedBits n (reserved_of_header_ge hh)⟩
  · have hv : ¬operandValue n o < 0 := by simp [operandValue_neg_iff_testBit hn, hbit]
    rw [(header_add_tag f).1, decode_setField n f hv, (operandValue_of_nonneg hv).1, operandBits]
  · rw [(header_add_tag f).1, decode_setField_negative n f ((operandValue_neg_iff_testBit hn o).mpr hbit)]
  · rw [(header_add_tag f).2.1, decode_getField]
  · rw [(header_add_tag f).2.2, decode_getFieldRaw]
  · exact ⟨decode_illegalField n o (op := 0b00#2) (by decide), decode_illegalField n o (op := 0b01#2) (by decide),
      decode_illegalField n o (op := 0b10#2) (by decide)⟩

/-- Settles O18: each word's header is the one its command's law speaks of. -/
theorem writtenOutWordsDecode : Obligations.WrittenOutWordsDecode :=
  ⟨decode_setField_natCast 32 .second (k := 65) (by decide), decode_getField 32 .year 0,
    decode_getFieldRaw 32 .second 0, decode_restartIntegrity 32 0, by decide, by decide, by decide⟩

/-! ### The assembler (R74) -/

/-- A word the encoder writes fits the port. -/
theorem operandWord_lt (n : Nat) (v : Int) : operandWord n v < 2 ^ n := by
  have hpos : (0 : Int) < (2 ^ n : Nat) := by exact_mod_cast Nat.two_pow_pos n
  exact (Int.toNat_lt (Int.emod_nonneg v hpos.ne')).mpr (Int.emod_lt_of_pos v hpos)

/-- The assembler takes a value the port can carry. -/
theorem assemble_setField {n : Nat} {v : Int} (f : TimeField) (h1 : -(2 ^ (n - 1)) ≤ v) (h2 : v < 2 ^ (n - 1)) :
    assemble n (.setField f v) = some (encode n (.setField f v)) :=
  if_pos (by push_cast; exact ⟨h1, h2⟩)

/-- It refuses every other. -/
theorem assemble_setField_outside {n : Nat} {v : Int} (f : TimeField) (h : v < -(2 ^ (n - 1)) ∨ 2 ^ (n - 1) ≤ v) :
    assemble n (.setField f v) = none :=
  if_neg (by push_cast; omega)

/-- Settles O19: the words are the encoder's, and two's complement gives the written value back. -/
theorem assembledLineDecodesToItsCommand : Obligations.AssembledLineDecodesToItsCommand := by
  intro n hn
  refine ⟨fun f v h => assemble_setField_outside f h, fun f v h1 h2 => ?_,
    fun f => ⟨_, rfl, rfl, decode_getField n f 0⟩, fun f => ⟨_, rfl, rfl, decode_getFieldRaw n f 0⟩,
    ⟨_, rfl, rfl, decode_restartIntegrity n 0⟩⟩
  have hv : operandValue n (operandWord n v) = v := by
    refine operandValue_operandWord hn ?_ ?_ <;> push_cast <;> assumption
  refine ⟨_, assemble_setField f h1 h2, operandWord_lt n v, hv, fun hpos => ?_, fun hneg => ?_⟩
  · rw [encode, decode_setField n f (by omega), hv]
  · exact decode_setField_negative n f (by omega)

/-! ### exec of an operand the decoder never gives (log entry 14) -/

/-- Settles O23: a ready unit goes to acceptance, where a negative operand faults. -/
theorem negativeOperandFaultsAtAcceptance : Obligations.NegativeOperandFaultsAtAcceptance := by
  intro f v s hv hp hr
  rw [exec_ready _ ⟨hp, hr⟩, acceptCommand_negative hv, raiseFault, faultCodeOf]

/-- Settles O58: a ready unit goes to acceptance, where an operand no word spells is refused. -/
theorem operandThePortCannotCarryIsRefused : Obligations.OperandThePortCannotCarryIsRefused := by
  intro f v s hv hp hr
  rw [exec_ready _ ⟨hp, hr⟩, acceptCommand_not_expressible hv]

/-! ### The host and the bus between two moves of the unit (R60, R243) -/

/-- Outside BUSY there is no transaction to hang (R207). -/
theorem hangEvent_of_not_busy {s : State} (landed : Bool) (h : s.phase ≠ .busy) : hangEvent landed s = s := if_neg h

/-- Settles O53, event by event. -/
theorem hostPresentsAndBusWaits : Obligations.HostPresentsAndBusWaits := by
  intro s hw
  rw [step_of_wf hw]
  refine ⟨fun c he => ?_, fun he => ?_, fun landed he hb => ?_⟩
  · rw [he]; rfl
  · rw [he, runEvent]
  · rw [he, runEvent, hangEvent_of_not_busy (s := takeInput s) landed hb]

end Sys2Proof.Machine
end

section
/-! PROOFS. The codec family (40_bcd_codec.md R101 to R105): a byte is its two nibbles, the encoder writes tens and
units into them, the decoder reads them back, and a valid byte is one the encoder can write. -/

namespace Sys2Proof.Machine

/-! ### The nibbles of a byte (R9, R71) -/

/-- `b[7:4]` as a bit field. -/
theorem toNat_extractLsb'_high (b : Byte) : (b.extractLsb' 4 4).toNat = highNibble b := by
  rw [BitVec.extractLsb'_toNat, Nat.shiftRight_eq_div_pow, highNibble_eq]
  exact Nat.mod_eq_of_lt (Nat.div_lt_of_lt_mul b.isLt)

/-- `b[3:0]` as a bit field. -/
theorem toNat_extractLsb'_low (b : Byte) : (b.extractLsb' 0 4).toNat = lowNibble b := by
  rw [BitVec.extractLsb'_toNat, Nat.shiftRight_zero, lowNibble_eq]

/-- A byte as a number, by its nibbles. -/
theorem toNat_eq_nibbles (b : Byte) : b.toNat = highNibble b * 16 + lowNibble b := by
  rw [highNibble_eq, lowNibble_eq]
  omega

/-- Each nibble is below 16, valid or not (R103). -/
theorem nibbles_lt (b : Byte) : highNibble b < 16 ∧ lowNibble b < 16 := by
  rw [highNibble_eq, lowNibble_eq]
  omega

theorem validBCD_iff (b : Byte) : validBCD b = true ↔ highNibble b ≤ 9 ∧ lowNibble b ≤ 9 := by
  rw [validBCD, Bool.and_eq_true, decide_eq_true_eq, decide_eq_true_eq]

/-- Validity (R13) on the bit fields. -/
theorem validBCD_iff_extractLsb' (b : Byte) :
    validBCD b = true ↔ b.extractLsb' 4 4 ≤ 9#4 ∧ b.extractLsb' 0 4 ≤ 9#4 := by
  rw [validBCD_iff, BitVec.le_def, BitVec.le_def, toNat_extractLsb'_high, toNat_extractLsb'_low]
  rfl

/-- Bit 7 alone is worth 128. -/
theorem le_toNat_of_getLsbD_seven {b : Byte} (h : b.getLsbD 7 = true) : 128 ≤ b.toNat :=
  Nat.ge_two_pow_of_testBit h

/-! ### The encoder and the decoder on each other's values -/

/-- The encoder on its domain, nibble by nibble (R101). -/
theorem encodeBCD_nibbles {w : Nat} (h : w ≤ 99) :
    ∃ b, encodeBCD (w : Int) = some b ∧ highNibble b = w / 10 ∧ lowNibble b = w % 10 := by
  refine ⟨_, encodeBCD_of_le w h, ?_, ?_⟩
  · rw [highNibble_eq, encodeBCD_toNat w h]
    omega
  · rw [lowNibble_eq, encodeBCD_toNat w h]
    omega

/-- What the encoder writes is valid BCD (R101). -/
theorem validBCD_of_nibbles {b : Byte} {w : Nat} (h : w ≤ 99) (hh : highNibble b = w / 10)
    (hl : lowNibble b = w % 10) : validBCD b = true := by
  rw [validBCD_iff]
  omega

/-- First round trip (R105): the decoder undoes the encoder. -/
theorem decodeBCD_of_encodeBCD {w : Nat} (h : w ≤ 99) :
    ∃ b, encodeBCD (w : Int) = some b ∧ decodeBCD b = w := by
  obtain ⟨b, hb, hh, hl⟩ := encodeBCD_nibbles h
  refine ⟨b, hb, ?_⟩
  rw [decodeBCD, hh, hl]
  omega

/-- A value above 99 is outside the encoder's domain (R102). -/
theorem encodeBCD_of_gt {w : Nat} (h : 99 < w) : encodeBCD (w : Int) = none :=
  encodeBCD_of_not w (by omega)

/-- Second round trip (R105): the encoder undoes the decoder exactly on valid bytes. -/
theorem encodeBCD_decodeBCD_iff (b : Byte) : encodeBCD (decodeBCD b) = some b ↔ validBCD b = true := by
  constructor
  · intro h
    by_cases hd : decodeBCD b ≤ 99
    · obtain ⟨c, hc, hh, hl⟩ := encodeBCD_nibbles hd
      obtain rfl : c = b := Option.some.inj (hc.symm.trans h)
      exact validBCD_of_nibbles hd hh hl
    · rw [encodeBCD_of_gt (not_le.mp hd)] at h
      cases h
  · rw [validBCD_iff]
    rintro ⟨hh, hl⟩
    have hd : decodeBCD b = highNibble b * 10 + lowNibble b := rfl
    obtain ⟨c, hc, hch, hcl⟩ := encodeBCD_nibbles (w := decodeBCD b) (by omega)
    have : c = b := by
      apply BitVec.eq_of_toNat_eq
      rw [toNat_eq_nibbles c, toNat_eq_nibbles b]
      omega
    rw [hc, this]

/-- On valid bytes the decoder is injective (R105): each is the encoding of its value. -/
theorem decodeBCD_injective_on_valid {b c : Byte} (hb : validBCD b = true) (hc : validBCD c = true)
    (h : decodeBCD b = decodeBCD c) : b = c := by
  have hb' := (encodeBCD_decodeBCD_iff b).mpr hb
  have hc' := (encodeBCD_decodeBCD_iff c).mpr hc
  rw [h] at hb'
  exact Option.some.inj (hb'.symm.trans hc')

/-- On its domain the encoder is strictly increasing (R105). -/
theorem encodeBCD_strictMono {v w : Nat} (hvw : v < w) (hw : w ≤ 99) :
    ∃ b c, encodeBCD (v : Int) = some b ∧ encodeBCD (w : Int) = some c ∧ b.toNat < c.toNat := by
  have hv : v ≤ 99 := by omega
  refine ⟨_, _, encodeBCD_of_le v hv, encodeBCD_of_le w hw, ?_⟩
  rw [encodeBCD_toNat v hv, encodeBCD_toNat w hw]
  omega

/-! ### The obligations of 40_bcd_codec.md -/

/-- Settles O2: an accepted table has MOD between 1 and 100. -/
theorem encoderRefusesOutsideItsDomainAndUnitStaysInside :
    Obligations.EncoderRefusesOutsideItsDomainAndUnitStaysInside := by
  refine ⟨fun w h => encodeBCD_of_not w (by omega), fun p f v hp hv => ?_⟩
  exact ⟨_, normalise_of_nonneg hv (Params.wf_modulus hp f).1, rfl, remainder_le hp f v.toNat⟩

/-- Settles O4, law by law; 0x0A and 0x10 are the two bytes of one value. -/
theorem codecRoundTripInjectivityMonotonicity : Obligations.CodecRoundTripInjectivityMonotonicity := by
  refine ⟨fun v hv => decodeBCD_of_encodeBCD hv, fun b => ?_, by decide, fun b hb => encodeBCD_of_gt hb,
    fun b c hb hc h => decodeBCD_injective_on_valid hb hc h, ⟨0x0A#8, 0x10#8, by decide, by decide⟩,
    fun v w hvw hw => encodeBCD_strictMono hvw hw⟩
  rw [encodeBCD_decodeBCD_iff, validBCD_iff_extractLsb']

/-- Settles O1, from the two nibbles the encoder writes. -/
theorem encodeBcdPacksTensAndUnits : Obligations.EncodeBcdPacksTensAndUnits := by
  intro w hw
  obtain ⟨b, hb, hh, hl⟩ := encodeBCD_nibbles hw
  have hn : b.toNat = w / 10 * 16 + w % 10 := by rw [toNat_eq_nibbles, hh, hl]
  refine ⟨b, hb, ?_, ?_, hn, by omega, validBCD_of_nibbles hw hh hl, fun h7 => ?_⟩
  · apply BitVec.eq_of_toNat_eq
    rw [toNat_extractLsb'_high, hh, BitVec.toNat_ofNat]
    omega
  · apply BitVec.eq_of_toNat_eq
    rw [toNat_extractLsb'_low, hl, BitVec.toNat_ofNat]
    omega
  · have := le_toNat_of_getLsbD_seven h7
    omega

/-- Settles O3: the formula is the decoder's definition on the bit fields, and 15 is the largest nibble. -/
theorem decodeBcdIsTheFormulaOnEveryByte : Obligations.DecodeBcdIsTheFormulaOnEveryByte := by
  refine ⟨fun raw => ⟨?_, ?_⟩, by decide, by decide, by decide⟩
  · rw [toNat_extractLsb'_high, toNat_extractLsb'_low, decodeBCD]
  · obtain ⟨hh, hl⟩ := nibbles_lt raw
    rw [decodeBCD]
    omega

end Sys2Proof.Machine
end

section
/-! PROOFS. The field map family (41_field_map.md R120 to R136): the ROM and its checks, the write path and the read
path of a field, and what GET_FIELD answers, alone and after a SET_FIELD. -/

namespace Sys2Proof.Machine

/-! ### The ROM and the checks of a table (R120, R122) -/

/-- The ROM has the row of every field (R120). -/
theorem lookup_tag (t : FieldTable) (f : TimeField) : t.lookup f.tag = some (t.row f) := by
  rw [FieldTable.lookup, TimeField.ofTag_tag, Option.map_some]

/-- Settles O8: tag 7 alone names no field. -/
theorem fieldRomHasSevenRowsAndRefusesTagSeven : Obligations.FieldRomHasSevenRowsAndRefusesTagSeven := by
  intro t tag
  refine ⟨?_, lookup_tag t .year, lookup_tag t .month, lookup_tag t .day, lookup_tag t .weekday, lookup_tag t .hour,
    lookup_tag t .minute, lookup_tag t .second⟩
  rw [FieldTable.lookup, Option.map_eq_none_iff, TimeField.ofTag_eq_none]

/-- Settles O5, cell by cell. -/
theorem defaultParametersAreTheTableOfTheSpec : Obligations.DefaultParametersAreTheTableOfTheSpec :=
  ⟨rfl, rfl, rfl, rfl, rfl, rfl, rfl, rfl, rfl, rfl, rfl, rfl, rfl, rfl, by decide⟩

/-- A check of every field in the list of all fields is a check of every field. -/
theorem all_fields_iff (q : TimeField → Bool) : TimeField.all.all q = true ↔ ∀ f, q f = true := by
  rw [List.all_eq_true]
  exact ⟨fun h f => h f f.mem_all, fun h f _ => h f⟩

/-- WF3 of one row (R122). -/
theorem checkWriteBytes_iff (d : FieldDesc) :
    checkWriteBytes d = true ↔ ∀ w : Nat, w < d.mod → ∃ b, encodeBCD (w : Int) = some b ∧ b &&& ~~~d.mask = 0#8 := by
  simp only [checkWriteBytes, List.all_eq_true, List.mem_range]
  refine forall₂_congr fun w _ => ?_
  cases encodeBCD (w : Int) with
  | none => simp
  | some b => simp

/-- WF5 (R122): no two fields share an address. -/
theorem checkAddresses_iff (t : FieldTable) :
    checkAddresses t = true ↔ ∀ f g, (t.row f).addr = (t.row g).addr → f = g := by
  have hnodup : TimeField.all.Nodup := by decide
  rw [checkAddresses, decide_eq_true_eq, List.nodup_map_iff_inj_on hnodup]
  exact ⟨fun h f g => h f f.mem_all g g.mem_all, fun h f _ g _ => h f g⟩

/-- WF1, WF2, WF3 and WF6 of one row, for `n = RESULT_BITS` (R122). -/
theorem checkRow_iff (n : Nat) (d : FieldDesc) :
    checkRow n d = true ↔
      d.min ≤ d.max ∧ (1 ≤ d.mod ∧ d.mod ≤ 100) ∧
        (∀ w : Nat, w < d.mod → ∃ b, encodeBCD (w : Int) = some b ∧ b &&& ~~~d.mask = 0#8) ∧
        d.max + d.offset < 2 ^ n := by
  simp only [checkRow, checkRange, checkModulus, checkResult, Bool.and_eq_true, decide_eq_true_eq, checkWriteBytes_iff,
    and_assoc]

/-- Settles O6, check by check; masking a byte with 0xFF leaves it as it is. -/
theorem tableAcceptedExactlyWhenChecksHold : Obligations.TableAcceptedExactlyWhenChecksHold := by
  have hff : ∀ b : Byte, b &&& 0xFF#8 = b := fun b => BitVec.and_allOnes
  refine ⟨fun p => ?_, by decide⟩
  simp only [Params.tableOk, checkIntegrityMask, Bool.and_eq_true, all_fields_iff, checkRow_iff, checkAddresses_iff,
    Bool.not_eq_true', hff, forall_and]
  tauto

/-- Settles O7: the parameters fail in the table, or in the ports alone. -/
theorem machineWithIllFormedTableTakesNoStep : Obligations.MachineWithIllFormedTableTakesNoStep := by
  intro s
  refine ⟨fun ht => ?_, fun ht hports => ?_⟩
  · simp [step, Params.wf, ht]
  · have hp : s.params.portsOk = false := by
      simp only [Params.portsOk, Bool.and_eq_false_iff, decide_eq_false_iff_not]
      omega
    simp [step, Params.wf, ht, hp]

/-! ### The write path (R123, R124, R132 to R134) -/

/-- In an accepted table the byte of a field write is the valid BCD of the remainder, inside the field's mask. -/
theorem writeData_spec {p : Params} (hp : p.wf = true) (f : TimeField) {v : Int} (hv : 0 ≤ v) :
    ∃ d, encodeBCD ((v.toNat % (p.table.row f).mod : Nat) : Int) = some d ∧ writeData (p.table.row f) v = some d ∧
      decodeBCD d = v.toNat % (p.table.row f).mod ∧ validBCD d = true ∧ d &&& ~~~(p.table.row f).mask = 0#8 := by
  have hle := remainder_le hp f v.toNat
  have hlt : v.toNat % (p.table.row f).mod < (p.table.row f).mod := Nat.mod_lt _ (Params.wf_modulus hp f).1
  obtain ⟨d, hd, hdec⟩ := decodeBCD_of_encodeBCD hle
  have hmask := Params.wf_writeByte hp f _ hlt
  rw [← Option.some.inj (hd.symm.trans (encodeBCD_of_le _ hle))] at hmask
  exact ⟨d, hd, (writeData_of_wf hp f hv).trans hd, hdec, (encodeBCD_decodeBCD_iff d).mp (hdec ▸ hd), hmask⟩

/-- Settles O9: every part is said of the one byte the field write carries. -/
theorem writeDataIsBcdOfRemainderInsideMask : Obligations.WriteDataIsBcdOfRemainderInsideMask := by
  intro p f v hp hv
  have hmod := (Params.wf_modulus hp f).1
  obtain ⟨d, henc, hwrite, hdec, hvalid, hmask⟩ := writeData_spec hp f hv
  exact ⟨_, d, normalise_of_nonneg hv hmod, rfl, Nat.mod_lt _ hmod, henc, hwrite, hdec, hvalid, hmask⟩

/-- The byte of a field write depends on the remainder only (R123). -/
theorem writeData_congr {d : FieldDesc} {v v' : Int} (hv : 0 ≤ v) (hv' : 0 ≤ v')
    (h : v.toNat % d.mod = v'.toNat % d.mod) : writeData d v = writeData d v' := by
  simp only [writeData, normalise, hv, hv', true_and, h]

/-- Settles O11: 2000 is a multiple of Year's MOD. -/
theorem yearWriteIgnoresTheCentury : Obligations.YearWriteIgnoresTheCentury := by
  refine ⟨fun v hv => writeData_congr (by omega) (by omega) ?_, by decide, by decide, by decide, by decide⟩
  change (v : Int).toNat % 100 = ((v : Int) - 2000).toNat % 100
  omega

/-- A byte that a field write can carry stands for a value below MOD, if MOD is at most 100 (WF2). -/
theorem decodeBCD_lt_of_writeData {d : FieldDesc} {v : Int} {b : Byte} (hmod : d.mod ≤ 100)
    (h : writeData d v = some b) : decodeBCD b < d.mod := by
  unfold writeData at h
  split at h
  · rename_i w hw
    obtain ⟨-, -, hlt⟩ := normalise_cases hw
    obtain ⟨b', hb', hdec⟩ := decodeBCD_of_encodeBCD (w := w) (by omega)
    obtain rfl := Option.some.inj (hb'.symm.trans h)
    omega
  · cases h

/-- Settles O12: 0x13 stands for 13, which is not below Month's MOD. -/
theorem monthAndDayWrapToZeroAndReadBackAsOne : Obligations.MonthAndDayWrapToZeroAndReadBackAsOne := by
  refine ⟨by decide, by decide, fun v h => ?_, by decide, by decide, by decide⟩
  exact absurd (decodeBCD_lt_of_writeData (by decide) h) (by decide)

/-! ### CLEAR_INTEGRITY (R131) -/

/-- The integrity mask has the integrity bit and no other. -/
theorem getLsbD_integrityMask (p : Params) (i : Nat) :
    (integrityMask p).getLsbD i = decide (i = p.integrityBit.val) := by
  have hlt := p.integrityBit.isLt
  rw [integrityMask, ← BitVec.twoPow_eq, BitVec.getLsbD_twoPow]
  simp [hlt, eq_comm]

/-- CLEAR_INTEGRITY, bit by bit (R131). -/
theorem getLsbD_clearIntegrity (p : Params) (b : Byte) (i : Nat) :
    (clearIntegrity p b).getLsbD i = if i = p.integrityBit.val then false else b.getLsbD i := by
  rw [clearIntegrity, BitVec.getLsbD_and, BitVec.getLsbD_not, getLsbD_integrityMask]
  split
  · rename_i hi
    simp [hi]
  · rename_i hi
    have hbit := b.getLsbD_of_ge i
    by_cases hlt : i < 8
    · simp [hi, hlt]
    · simp [hlt, hbit (by omega)]

/-- Settles O10: bit by bit, and with bit 7 the mask's complement is 0x7F. -/
theorem clearIntegrityClearsOneBitOnly : Obligations.ClearIntegrityClearsOneBitOnly := by
  refine fun p b => ⟨getLsbD_clearIntegrity p b, fun h7 => ?_⟩
  rw [clearIntegrity, integrityMask, h7]
  rfl

/-- In an accepted table the Second field does not see CLEAR_INTEGRITY (R125, WF4). -/
theorem clearIntegrity_and_mask {p : Params} (hp : p.wf = true) (b : Byte) :
    clearIntegrity p b &&& p.table.second.mask = b &&& p.table.second.mask := by
  apply BitVec.eq_of_getLsbD_eq
  intro i _
  rw [BitVec.getLsbD_and, BitVec.getLsbD_and, getLsbD_clearIntegrity]
  split
  · rename_i hi
    rw [hi, Params.wf_integrityMask hp, Bool.and_false, Bool.and_false]
  · rfl

/-! ### The read path (R125 to R127, R135) -/

theorem clamp_of_lt {x lo hi : Nat} (h : x < lo) : clamp x lo hi = lo := if_pos h

theorem clamp_of_gt {x lo hi : Nat} (hle : lo ≤ hi) (h : hi < x) : clamp x lo hi = hi := by
  rw [clamp, if_neg (by omega), if_pos h]

theorem clamp_of_mem {x lo hi : Nat} (h1 : lo ≤ x) (h2 : x ≤ hi) : clamp x lo hi = x := by
  rw [clamp, if_neg (by omega), if_neg (by omega)]

/-- Settles O13, by the three places a value can stand to a range. -/
theorem readPathMasksDecodesClampsOffsets : Obligations.ReadPathMasksDecodesClampsOffsets := by
  intro d raw hle
  rw [fieldResult_eq]
  refine ⟨fun hlt => ?_, fun hgt => ?_, fun hmin hmax => ?_⟩
  · rw [clamp_of_lt hlt]
  · rw [clamp_of_gt hle hgt]
  · rw [clamp_of_mem hmin hmax]

/-- The read path sees the bits inside the field's mask only (R125). -/
theorem fieldResult_congr {d : FieldDesc} {raw raw' : Byte} (h : raw &&& d.mask = raw' &&& d.mask) :
    fieldResult d raw = fieldResult d raw' := by
  rw [fieldResult_eq, fieldResult_eq, h]

/-- GET_FIELD's response in an accepted machine is the result of the byte read, whole (R153, WF6). -/
theorem exec_getField_responds {f : TimeField} {s : State} (hw : s.params.wf = true) (hb : s.phase = .busy)
    (hl : latchedCommand s = some (.getField f)) (hs : s.seqStep = 1) :
    ∃ t, exec (.getField f) s = .next t ∧ t.rspValid = true ∧
      t.rspData = fieldResult (s.params.table.row f) (busReadData s) := by
  refine ⟨_, exec_getField_one hb hl hs, rfl, ?_⟩
  rw [respond_rspData, busRead_params, zeroExtend_fieldResult hw]

/-- Settles O29: a clamped value is inside its range, and the offset moves both ends. -/
theorem getFieldResponseIsInRange : Obligations.GetFieldResponseIsInRange := by
  intro f s hw hb hl hs
  obtain ⟨t, hx, hvalid, hdata⟩ := exec_getField_responds hw hb hl hs
  have hrange := Params.wf_range hw f
  rw [fieldResult_eq] at hdata
  exact ⟨t, hx, hvalid, hdata ▸ Nat.add_le_add_right (le_clamp hrange) _,
    hdata ▸ Nat.add_le_add_right (clamp_le hrange) _⟩

/-- Settles O30: the bytes read agree where the Second field's mask is 1. -/
theorem getSecondDoesNotRevealIntegrityFlag : Obligations.GetSecondDoesNotRevealIntegrityFlag := by
  intro s s' hp hw hb hb' hs hs' hl hl' hclear
  have hw' : s'.params.wf = true := hp ▸ hw
  obtain ⟨t, hx, -, hdata⟩ := exec_getField_responds hw hb hl hs
  obtain ⟨t', hx', -, hdata'⟩ := exec_getField_responds hw' hb' hl' hs'
  refine ⟨t, t', hx, hx', ?_⟩
  rw [hdata, hdata', ← hp]
  rw [← hp] at hclear
  apply fieldResult_congr
  calc busReadData s &&& s.params.table.second.mask
      = clearIntegrity s.params (busReadData s) &&& s.params.table.second.mask := (clearIntegrity_and_mask hw _).symm
    _ = clearIntegrity s.params (busReadData s') &&& s.params.table.second.mask := by rw [hclear]
    _ = busReadData s' &&& s.params.table.second.mask := clearIntegrity_and_mask hw _

/-! ### A command run on a script of advances (R152, R153, R157) -/

/-- The unit runs the command `i`, at its step `n`, with the parameters `p` and the events `is` to come. -/
structure Serving (p : Params) (i : Instr) (n : Nat) (is : List Input) (s : State) : Prop where
  params : s.params = p
  wf : p.wf = true
  phase : s.phase = .busy
  notHung : s.busHung = false
  latched : latchedCommand s = some i
  seqStep : s.seqStep = n
  inputs : s.inputs = is

/-- Acceptance at an advance (R150). -/
theorem accept_serving {s : State} {i : Instr} {c : Command} {cs : List Command} {d : Draw} {is : List Input}
    (hinv : Invariant s) (hr : Ready s) (hc : s.commands = c :: cs) (hd : decode s.params.valueBits c = .ok i)
    (hi : s.inputs = advanceWith d :: is) :
    ∃ t, step s = .next t ∧ Serving s.params i 0 is t ∧ t.chip = s.chip := by
  have hwf : i.wf s.params.valueBits = true := wf_of_decode hd
  have hready : Ready (takeCommand (takeInput s)) := hr
  obtain ⟨-, -, hh⟩ := hinv.ready hr
  refine ⟨latchCommand i (takeCommand (takeInput s)), ?_, ⟨rfl, hinv.table, rfl, hh, ?_, rfl, ?_⟩, rfl⟩
  · rw [step_of_wf hinv.table, nextInput_cons hi]
    calc unitStep (takeInput s)
        = exec i (takeCommand (takeInput s)) := unitStep_ready (s := takeInput s) hr hc hd
      _ = acceptCommand i (takeCommand (takeInput s)) := exec_ready i hready
      _ = .next (latchCommand i (takeCommand (takeInput s))) :=
        acceptCommand_of_wf (s := takeCommand (takeInput s)) hwf
  · exact latchedCommand_latchCommand hwf
  · simp [hi]

namespace Serving

variable {p : Params} {i : Instr} {n : Nat} {d : Draw} {is : List Input} {s : State}

/-- At an advance the unit runs the current row of its command. -/
theorem step_eq (h : Serving p i n (advanceWith d :: is) s) : step s = exec i (takeInput s) :=
  stepRunsTheLatchedCommand s i (h.params ▸ h.wf) (by rw [nextInput_cons h.inputs]; rfl) h.phase h.notHung h.latched

/-- The row runs on the same unit, its event taken. -/
theorem afterInput (h : Serving p i n (advanceWith d :: is) s) : Serving p i n is (takeInput s) :=
  ⟨h.params, h.wf, h.phase, h.notHung, (latchedCommand_takeInput s).trans h.latched, h.seqStep,
    by rw [takeInput_inputs, h.inputs, List.tail_cons]⟩

/-- After its transaction the unit serves the next step of its command (R22). -/
theorem advance {u : State} (h : Serving p i n is s) (hu : KeepsUnit s u) : Serving p i (n + 1) is (advanceStep u) where
  params := hu.params.trans h.params
  wf := h.wf
  phase := hu.phase.trans h.phase
  notHung := hu.busHung.trans h.notHung
  latched := hu.latchedCommand.trans h.latched
  seqStep := by rw [advanceStep_seqStep, hu.seqStep, h.seqStep]
  inputs := (congrArg State.inputs hu.eq).trans h.inputs

/-- A PASSIVE step that sets the pointer: the chip stays as it is (R32, R33). -/
theorem setAddr {a : Byte} (h : Serving p i n (advanceWith d :: is) s) (hpassive : p.env = .passive)
    (ha : tableAddr p a)
    (hx : exec i (takeInput s) = .next (advanceStep (busSetAddr a (takeInput s)))) :
    ∃ t, step s = .next t ∧ Serving p i (n + 1) is t ∧ t.chip = s.chip ∧ t.ptr = a := by
  obtain rfl := h.params
  exact ⟨_, h.step_eq.trans hx, h.afterInput.advance (transacts_busSetAddr (s := takeInput s) ha).toKeepsUnit,
    settleChip_passive (s := takeInput s) hpassive _, rfl⟩

/-- SET_FIELD's field write: a PASSIVE chip then holds the byte written (R33, R152). -/
theorem setField_write {f : TimeField} {v : Int} {b : Byte} (h : Serving p (.setField f v) 0 (advanceWith d :: is) s)
    (hpassive : p.env = .passive) (hb : writeData (p.table.row f) v = some b) :
    ∃ t, step s = .next t ∧ Serving p (.setField f v) 1 is t ∧
      Memory.readByte t.chip (p.table.row f).addr = b := by
  obtain rfl := h.params
  have h' := h.afterInput
  refine ⟨_, h.step_eq.trans (exec_setField_zero h'.phase h'.latched h'.seqStep hb),
    h'.advance (transacts_busWrite b ⟨f, rfl⟩).toKeepsUnit, ?_⟩
  rw [advanceStep_chip, takeInput_params, readByte_busWrite_passive (s := takeInput s) hpassive, if_pos rfl]

/-- SET_FIELD's read of the Second register: under PASSIVE, the byte the pointer chose (R32, R152). -/
theorem setField_read {f : TimeField} {v : Int} (h : Serving p (.setField f v) 2 (advanceWith d :: is) s)
    (hpassive : p.env = .passive) :
    ∃ t, step s = .next t ∧ Serving p (.setField f v) 3 is t ∧ t.chip = s.chip ∧
      t.rdLatch = Memory.readByte s.chip s.ptr := by
  obtain rfl := h.params
  have h' := h.afterInput
  exact ⟨_, h.step_eq.trans (exec_setField_two h'.phase h'.latched h'.seqStep),
    h'.advance (transacts_busRead _).toKeepsUnit, settleChip_passive (s := takeInput s) hpassive _,
    busReadData_passive (s := takeInput s) hpassive⟩

/-- SET_FIELD's last step: a PASSIVE chip's other registers stay as they are (R33, R152). -/
theorem setField_restart {f : TimeField} {v : Int} (h : Serving p (.setField f v) 3 (advanceWith d :: is) s)
    (hpassive : p.env = .passive) :
    ∃ t, step s = .next t ∧ t.rspValid = true ∧
      Memory.readByte t.chip (secondAddr p) = clearIntegrity p s.rdLatch ∧
      ∀ a, a ≠ secondAddr p → Memory.readByte t.chip a = Memory.readByte s.chip a := by
  obtain rfl := h.params
  have h' := h.afterInput
  refine ⟨_, h.step_eq.trans (exec_setField_three h'.phase h'.latched h'.seqStep), rfl, ?_, fun a ha => ?_⟩
  · rw [respond_chip, takeInput_params, takeInput_rdLatch, readByte_busWrite_passive (s := takeInput s) hpassive,
      if_pos rfl]
  · rw [respond_chip, takeInput_params, readByte_busWrite_passive (s := takeInput s) hpassive, if_neg ha,
      takeInput_params, if_neg fun hc => ha hc.1, takeInput_chip]

/-- GET_FIELD's read: under PASSIVE it responds with the result of the byte the pointer chose (R32, R153). -/
theorem getField_read {f : TimeField} (h : Serving p (.getField f) 1 (advanceWith d :: is) s)
    (hpassive : p.env = .passive) :
    ∃ t, step s = .next t ∧ t.rspValid = true ∧
      t.rspData = fieldResult (p.table.row f) (Memory.readByte s.chip s.ptr) := by
  obtain rfl := h.params
  have h' := h.afterInput
  obtain ⟨t, hx, hvalid, hdata⟩ := exec_getField_responds (s := takeInput s) h.wf h'.phase h'.latched h'.seqStep
  exact ⟨t, h.step_eq.trans hx, hvalid,
    hdata.trans (congrArg _ (busReadData_passive (s := takeInput s) hpassive))⟩

end Serving

/-- The field whose register is the Second register is Second (WF5). -/
theorem eq_second_of_addr {p : Params} (hp : p.wf = true) {f : TimeField}
    (h : (p.table.row f).addr = secondAddr p) : f = .second := by
  have hcheck : checkAddresses p.table = true := decide_eq_true (Params.wf_addresses hp)
  exact (checkAddresses_iff p.table).mp hcheck f .second h

/-- Under PASSIVE a SET_FIELD completes and leaves its byte in the field's register, but for the integrity bit, which is
outside the field's mask (R152, R156, WF4). -/
theorem run_setField_passive {f : TimeField} {v : Int} {s : State} {d d0 d1 d2 d3 : Draw} {c : Command}
    {cs : List Command} {rest : List Input} (hinv : Invariant s) (hpassive : s.params.env = .passive) (hr : Ready s)
    (hc : s.commands = c :: cs) (hd : decode s.params.valueBits c = .ok (.setField f v))
    (hi : s.inputs = [d, d0, d1, d2, d3].map advanceWith ++ rest) {b : Byte}
    (hb : writeData (s.params.table.row f) v = some b) :
    ∃ t, core.run 5 s = .next t ∧ t.rspValid = true ∧
      Memory.readByte t.chip (s.params.table.row f).addr &&& (s.params.table.row f).mask =
        b &&& (s.params.table.row f).mask := by
  obtain ⟨t0, h0, hs0, -⟩ := accept_serving hinv hr hc hd hi
  obtain ⟨t1, h1, hs1, hbyte⟩ := hs0.setField_write hpassive hb
  obtain ⟨t2, h2, hs2, hchip2, hptr2⟩ := hs1.setAddr hpassive ⟨.second, rfl⟩
    (hs1.params ▸ exec_setField_one hs1.afterInput.phase hs1.afterInput.latched hs1.afterInput.seqStep)
  obtain ⟨t3, h3, hs3, hchip3, hlatch⟩ := hs2.setField_read hpassive
  obtain ⟨t, h4, hvalid, hsecond, hother⟩ := hs3.setField_restart hpassive
  refine ⟨t, ?_, hvalid, ?_⟩
  · rw [run_succ_of_next h0, run_succ_of_next h1, run_succ_of_next h2, run_succ_of_next h3, run_succ_of_next h4]
    rfl
  · by_cases ha : (s.params.table.row f).addr = secondAddr s.params
    · obtain rfl := eq_second_of_addr hinv.table ha
      have hread : t3.rdLatch = b := by rw [hlatch, hptr2, hchip2]; exact hbyte
      rw [ha, hsecond, hread]
      exact clearIntegrity_and_mask hinv.table b
    · rw [hother _ ha, hchip3, hchip2, hbyte]

/-- Under PASSIVE a GET_FIELD completes and responds with the result of the byte in the field's register (R153). -/
theorem run_getField_passive {f : TimeField} {s : State} {d d0 d1 : Draw} {c : Command} {cs : List Command}
    {rest : List Input} (hinv : Invariant s) (hpassive : s.params.env = .passive) (hr : Ready s)
    (hc : s.commands = c :: cs) (hd : decode s.params.valueBits c = .ok (.getField f))
    (hi : s.inputs = [d, d0, d1].map advanceWith ++ rest) :
    ∃ t, core.run 3 s = .next t ∧ t.rspValid = true ∧
      t.rspData = fieldResult (s.params.table.row f) (Memory.readByte s.chip (s.params.table.row f).addr) := by
  obtain ⟨t0, h0, hs0, hchip0⟩ := accept_serving hinv hr hc hd hi
  obtain ⟨t1, h1, hs1, hchip1, hptr1⟩ := hs0.setAddr hpassive ⟨f, rfl⟩
    (hs0.params ▸ exec_getField_zero hs0.afterInput.phase hs0.afterInput.latched hs0.afterInput.seqStep)
  obtain ⟨t, h2, hvalid, hdata⟩ := hs1.getField_read hpassive
  refine ⟨t, ?_, hvalid, ?_⟩
  · rw [run_succ_of_next h0, run_succ_of_next h1, run_succ_of_next h2]
    rfl
  · rw [hdata, hptr1, hchip1, hchip0]

/-! ### What GET_FIELD reads back (R136) -/

/-- The read path on a byte inside the mask: the clamped value with its offset (R125 to R127). -/
theorem fieldResult_of_inside_mask {d : FieldDesc} {b : Byte} (h : b &&& ~~~d.mask = 0#8) :
    fieldResult d b = clamp (decodeBCD b) d.min d.max + d.offset := by
  have hb : b &&& d.mask = b := by
    calc b &&& d.mask = b &&& d.mask ||| b &&& ~~~d.mask := by rw [h, BitVec.or_zero]
      _ = b &&& BitVec.allOnes 8 := by rw [← BitVec.and_or_distrib_left, BitVec.or_not_self]
      _ = b := BitVec.and_allOnes
  rw [fieldResult_eq, hb]

theorem clamp_eq_self_iff {x lo hi : Nat} (h : x ≤ hi) : clamp x lo hi = x ↔ lo ≤ x := by
  rcases Nat.lt_or_ge x lo with hlt | hge
  · rw [clamp_of_lt hlt]
    omega
  · rw [clamp_of_mem hge h]
    exact iff_of_true rfl hge

/-- In the default table a remainder is never above MAX (R121). -/
theorem defaultTable_remainder_le (f : TimeField) (n : Nat) :
    n % (defaultTable.row f).mod ≤ (defaultTable.row f).max := by
  have hmod : (defaultTable.row f).mod = (defaultTable.row f).max + 1 := by cases f <;> rfl
  rw [hmod]
  exact Nat.le_of_lt_succ (Nat.mod_lt n (Nat.succ_pos _))

/-- Settles O56: the bits read back are the bits written, which the read path decodes to the remainder and clamps. -/
theorem getFieldReadsBackWhatSetFieldWrote : Obligations.GetFieldReadsBackWhatSetFieldWrote := by
  intro f v s d d0 d1 d2 d3 c cs rest hinv hpassive hp hr hc hd hi
  obtain ⟨hv, -⟩ := Instr.wf_setField.mp (wf_of_decode hd)
  obtain ⟨b, -, hb, hdec, -, hmask⟩ := writeData_spec hinv.table f hv
  obtain ⟨t, hrun, hvalid, hbits⟩ := run_setField_passive hinv hpassive ⟨hp, hr⟩ hc hd hi hb
  refine ⟨t, hrun, hvalid, fun u e e0 e1 c' cs' rest' hinv' hparams hp' hr' hc' hd' hi' hkept => ?_⟩
  obtain ⟨w, hrun', hvalid', hdata⟩ := run_getField_passive hinv' (hparams ▸ hpassive) ⟨hp', hr'⟩ hc' hd' hi'
  rw [hparams, fieldResult_congr (hkept.trans hbits), fieldResult_of_inside_mask hmask, hdec] at hdata
  refine ⟨w, hrun', hvalid', hdata, fun htable => ?_⟩
  rw [hdata, Nat.add_right_cancel_iff, htable]
  exact clamp_eq_self_iff (defaultTable_remainder_le f _)

end Sys2Proof.Machine
end

section
/-! PROOFS. The commands family (42_commands.md R150 to R162): acceptance, each command's transactions and response, what
a step of it leaves unchanged, and whole commands run to their completion. -/

namespace Sys2Proof.Machine

/-! ### Acceptance (R150) -/

/-- A ready unit takes a well-formed command. -/
theorem exec_accepts {i : Instr} {s : State} (hr : Ready s) (hw : i.wf s.params.valueBits = true) :
    exec i s = .next (latchCommand i s) :=
  (exec_ready i hr).trans (acceptCommand_of_wf hw)

/-- Settles O37: a ready unit's move is exec of the command on the port, which is then off it. -/
theorem stepRunsTheCommandOnThePort : Obligations.StepRunsTheCommandOnThePort := by
  intro s c cs i hw he hp hr hc hd
  have hunit : unitStep (takeInput s) = exec i (takeCommand (takeInput s)) :=
    unitStep_ready (s := takeInput s) ⟨hp, hr⟩ hc hd
  rw [step_of_wf hw, he, runEvent, hunit, takeCommand, takeInput_commands, takeInput_taken, hc, List.tail_cons]

/-- Settles O20: what acceptance latches, command by command. -/
theorem acceptanceLatchesTheCommand : Obligations.AcceptanceLatchesTheCommand := by
  intro s hp hr
  have haccepts : ∀ i : Instr, i.wf s.params.valueBits = true → exec i s = .next (latchCommand i s) :=
    fun i => exec_accepts ⟨hp, hr⟩
  refine ⟨fun f v h0 hlt => ?_, fun f => ?_, fun f => ?_, ?_, fun i t hw hx => ?_⟩
  · rw [haccepts _ (Instr.wf_setField.mpr ⟨h0, hlt⟩), latchCommand, op_encode_setField, tag_encode_setField]
  · rw [haccepts _ rfl, latchCommand, op_encode_getField, tag_encode_getField]
  · rw [haccepts _ rfl, latchCommand, op_encode_getFieldRaw, tag_encode_getFieldRaw]
  · rw [haccepts _ rfl, latchCommand, op_encode_restartIntegrity, tag_encode_restartIntegrity]
  · obtain rfl := Host.Outcome.next.inj ((haccepts i hw).symm.trans hx)
    exact latchedCommand_latchCommand hw

/-- Settles O21: in each of the three cases the command is neither accepted nor stepped. -/
theorem commandsAreHeldUnlessReady : Obligations.CommandsAreHeldUnlessReady := by
  refine ⟨fun i s hheld => ?_, fun s hw he hheld => ?_⟩
  · rw [exec_eq_serveCommand, serveCommand]
    rcases hheld with ⟨hp, hr⟩ | hp | ⟨hp, hl⟩
    · simp [hp, hr]
    · simp [hp]
    · simp [hp, hl]
  · rw [step_of_wf hw, he, runEvent, unitStep]
    rcases hheld with ⟨hp, hr⟩ | hp
    · simp [hp, hr]
    · simp [hp]

/-! ### Each command from acceptance to its response (R152 to R155, R157) -/

/-- A PASSIVE write to the Second register changes no other: no flag is drawn for it (R33). -/
theorem readByte_busWrite_second {s : State} (h : s.params.env = .passive) (d x : Byte) :
    Memory.readByte (busWrite (secondAddr s.params) d s).chip x =
      if x = secondAddr s.params then d else Memory.readByte s.chip x := by
  rw [readByte_busWrite_passive h]
  split
  · rfl
  · rename_i hx
    rw [if_neg fun hc => hx hc.1]

/-- Settles O25: acceptance and the four rows of SET_FIELD. -/
theorem setFieldCompletes : Obligations.SetFieldCompletes := by
  intro f v s d0 d1 d2 d3 hw h0 hlt hp hr
  obtain ⟨data, henc, hdata, -⟩ := writeData_spec hw f h0
  have hwf : (Instr.setField f v).wf s.params.valueBits = true := Instr.wf_setField.mpr ⟨h0, hlt⟩
  have hl := latchedCommand_latchCommand hwf
  refine ⟨_, _, _, _, _, data, henc, exec_accepts ⟨hp, hr⟩ hwf, exec_setField_zero rfl hl rfl hdata,
    exec_setField_one rfl hl rfl, exec_setField_two rfl hl rfl, exec_setField_three rfl hl rfl, rfl, rfl, ?log,
    rfl, rfl, rfl, zeroExtend_zero _, congrArg (s.rspLog ++ [·]) (zeroExtend_zero _), rfl, rfl, rfl, rfl, rfl,
    fun henv => ⟨rfl, busReadData_passive (s := withDraw d2 _) henv⟩⟩
  case log => simp [secondAddr]

/-- Settles O26: acceptance and the two rows of GET_FIELD. -/
theorem getFieldCompletes : Obligations.GetFieldCompletes := by
  intro f s d0 d1 hw hp hr
  have hl := latchedCommand_latchCommand (i := .getField f) (s := s) rfl
  refine ⟨_, _, _, exec_accepts ⟨hp, hr⟩ rfl, exec_getField_zero rfl hl rfl, exec_getField_one rfl hl rfl, rfl, ?log,
    zeroExtend_fieldResult hw f _, rfl, rfl, rfl, rfl, rfl, rfl, rfl, rfl, rfl, rfl, fun henv => ⟨?chip, ?read⟩⟩
  case log => simp
  case chip => simp [settleChip_passive, henv]
  case read => simp [busReadData_passive, settleChip_passive, henv]

/-- Settles O27: acceptance and the two rows of GET_FIELD_RAW. -/
theorem getFieldRawCompletes : Obligations.GetFieldRawCompletes := by
  intro f s d0 d1 hp hr
  have hl := latchedCommand_latchCommand (i := .getFieldRaw f) (s := s) rfl
  refine ⟨_, _, _, exec_accepts ⟨hp, hr⟩ rfl, exec_getFieldRaw_zero rfl hl rfl, exec_getFieldRaw_one rfl hl rfl, rfl,
    ?log, rfl, fun hbits => zeroExtend_byte hbits _, rfl, rfl, rfl, rfl, rfl, rfl, rfl, rfl, rfl, rfl,
    fun henv => ⟨?chip, ?read⟩⟩
  case log => simp
  case chip => simp [settleChip_passive, henv]
  case read => simp [busReadData_passive, settleChip_passive, henv]

/-- Settles O28: acceptance and the three rows of RESTART_INTEGRITY. -/
theorem restartIntegrityCompletes : Obligations.RestartIntegrityCompletes := by
  intro s d0 d1 d2 hp hr
  have hl := latchedCommand_latchCommand (i := .restartIntegrity) (s := s) rfl
  refine ⟨_, _, _, _, exec_accepts ⟨hp, hr⟩ rfl, exec_restartIntegrity_zero rfl hl rfl,
    exec_restartIntegrity_one rfl hl rfl, exec_restartIntegrity_two rfl hl rfl, rfl, rfl, ?log, rfl, rfl, rfl,
    zeroExtend_zero _, congrArg (s.rspLog ++ [·]) (zeroExtend_zero _), rfl, rfl, rfl, rfl, rfl, rfl,
    fun henv => ⟨?read, fun a => ?chip⟩⟩
  case log => simp [secondAddr]
  case read => simp [busReadData_passive, settleChip_passive, henv, secondAddr]
  case chip =>
    rw [respond_chip, readByte_busWrite_second]
    · simp [settleChip_passive, henv, secondAddr]
    · exact henv

/-! ### Everything exec can answer -/

/-- The next states exec can answer, one constructor per thing that can happen. -/
inductive ExecMoves (i : Instr) (s : State) : State → Prop
  /-- The command is held (R150). -/
  | hold : ExecMoves i s s
  | accept (hr : Ready s) (hw : i.wf s.params.valueBits = true) : ExecMoves i s (latchCommand i s)
  /-- A negative operand faults (log entry 14). -/
  | fault (hr : Ready s) (hw : i.wf s.params.valueBits ≠ true) : ExecMoves i s (raiseFault .negativeValue s)
  /-- The current step of the command (R157). -/
  | row (t : State) (hb : s.phase = .busy) (ht : rowOf i s = .next t) : ExecMoves i s t

theorem execMoves_of_exec {i : Instr} {s t : State} (h : exec i s = .next t) : ExecMoves i s t := by
  rcases exec_cases h with ⟨hr, ha⟩ | ⟨hb, -, ht⟩ | ⟨-, -, ht⟩
  · rcases acceptCommand_cases ha with ⟨hw, rfl⟩ | ⟨hw, rfl⟩
    · exact .accept hr hw
    · exact .fault hr hw
  · exact .row t hb ht
  · exact Host.Outcome.next.inj ht ▸ .hold

/-- The two steps of a reading command (R153, R154). -/
theorem rowOf_read_cases {i : Instr} {f : TimeField} {s t : State} (hi : i = .getField f ∨ i = .getFieldRaw f)
    (h : rowOf i s = .next t) :
    (s.seqStep = 0 ∧ t = advanceStep (busSetAddr (s.params.table.row f).addr s)) ∨
      (s.seqStep = 1 ∧ ∃ r, t = respond r (busRead s)) := by
  have hrow : ∃ result, rowOf i s = readRow f result s := by
    rcases hi with rfl | rfl
    · exact ⟨_, rfl⟩
    · exact ⟨_, rfl⟩
  obtain ⟨result, hrow⟩ := hrow
  rw [hrow, readRow] at h
  split at h
  · rename_i hs
    exact .inl ⟨hs, (Host.Outcome.next.inj h).symm⟩
  · rename_i hs
    exact .inr ⟨hs, _, (Host.Outcome.next.inj h).symm⟩
  · cases h

/-- The three steps that both writing commands end in (R155, R156). -/
theorem integrityRestart_cases {n : Nat} {s t : State} (h : integrityRestart n s = .next t) :
    (n = 0 ∧ t = advanceStep (busSetAddr (secondAddr s.params) s)) ∨ (n = 1 ∧ t = advanceStep (busRead s)) ∨
      (n = 2 ∧ t = respond 0 (busWrite (secondAddr s.params) (clearIntegrity s.params s.rdLatch) s)) := by
  rcases n with _ | _ | _ | n
  · exact .inl ⟨rfl, (Host.Outcome.next.inj h).symm⟩
  · exact .inr (.inl ⟨rfl, (Host.Outcome.next.inj h).symm⟩)
  · exact .inr (.inr ⟨rfl, (Host.Outcome.next.inj h).symm⟩)
  · cases h

/-- The steps of a writing command: SET_FIELD's field write, or the integrity restart around the read (R152, R155). -/
theorem rowOf_write_cases {i : Instr} {s t : State} (hi : (∃ f v, i = .setField f v) ∨ i = .restartIntegrity)
    (h : rowOf i s = .next t) :
    (∃ f v a d, i = .setField f v ∧ s.seqStep = 0 ∧ t = advanceStep (busWrite a d s)) ∨
      ∃ n, s.seqStep + 1 = n + readStep i ∧ integrityRestart n s = .next t := by
  rcases hi with ⟨f, v, rfl⟩ | rfl
  · rw [rowOf, setFieldRow] at h
    split at h
    · rename_i hs
      rcases muxWrite_cases h with ⟨a, d, -, ht⟩ | ⟨-, ht⟩
      · exact .inl ⟨f, v, a, d, rfl, hs, Host.Outcome.next.inj ht⟩
      · cases ht
    · rename_i n hs
      exact .inr ⟨n, by rw [hs, readStep], h⟩
  · exact .inr ⟨s.seqStep, rfl, h⟩

/-! ### Frames (R23 to R26, R33) -/

/-- Settles O34, by what exec can answer. -/
theorem readCommandsFrame : Obligations.ReadCommandsFrame := by
  intro i f s t hi hx
  have hwf : i.wf s.params.valueBits = true := by rcases hi with rfl | rfl <;> rfl
  cases execMoves_of_exec hx with
  | hold => simp
  | accept hr hw => rcases hi with rfl | rfl <;> simp [hr.1]
  | fault hr hw => exact absurd hwf hw
  | row t hb ht =>
    rcases rowOf_read_cases hi ht with ⟨hs, rfl⟩ | ⟨hs, r, rfl⟩
    · simp +contextual [hb, settleChip_passive]
    · simp +contextual [hb, hs, settleChip_passive]

/-- Settles O35, by what exec can answer. -/
theorem writeCommandsUnitFrame : Obligations.WriteCommandsUnitFrame := by
  intro i s t hi hx
  cases execMoves_of_exec hx with
  | hold => simp
  | accept hr hw => simp +contextual [hr.1]
  | fault hr hw => simp [hr.1, hw]
  | row t hb ht =>
    rcases rowOf_write_cases hi ht with ⟨f, v, a, d, rfl, -, rfl⟩ | ⟨n, hs, hrestart⟩
    · simp [hb]
    · rcases integrityRestart_cases hrestart with ⟨rfl, rfl⟩ | ⟨rfl, rfl⟩ | ⟨rfl, rfl⟩
      · simp [hb]
      · simp [hb, show s.seqStep = readStep i by omega]
      · simp [hb, show s.seqStep = readStep i + 1 by omega]

/-- Settles O36: the step's number says which transaction it is, and the PASSIVE chip stores what a write carries. -/
theorem writeCommandsChipFrame : Obligations.WriteCommandsChipFrame := by
  intro i s t henv hb hl hx
  have answers : ∀ {u}, exec i s = .next u → t = u := fun hu => Host.Outcome.next.inj (hx.symm.trans hu)
  refine ⟨fun f v hi hs a d hm => ?_, fun hlast f v a d hm => ?_, fun hrest x => ?_⟩
  · subst hi
    obtain ⟨-, rfl, hd⟩ | ⟨hsel, -⟩ := writeMux_cases hm
    · rw [answers (exec_setField_zero hb hl hs hd), advanceStep_chip]
      refine ⟨(readByte_busWrite_passive henv _ _ _).trans (if_pos rfl), fun x hx => ?_⟩
      rw [readByte_busWrite_passive henv, if_neg hx, secondAddr]
    · cases hsel
  · obtain ⟨rfl, rfl⟩ := Prod.mk.inj (Option.some.inj hm)
    have ht : t = respond 0 (busWrite (secondAddr s.params) (clearIntegrity s.params s.rdLatch) s) := by
      rcases hlast with ⟨f, v, rfl, hs⟩ | ⟨rfl, hs⟩
      · exact answers (exec_setField_three hb hl hs)
      · exact answers (exec_restartIntegrity_two hb hl hs)
    rw [ht, respond_chip]
    refine ⟨(readByte_busWrite_second henv _ _).trans (if_pos rfl), fun x hx => ?_⟩
    rw [readByte_busWrite_second henv, if_neg hx]
  · have ht : t.chip = settleChip s s.chip := by
      rcases hrest with ⟨f, v, rfl, hs | hs⟩ | ⟨rfl, hs | hs⟩
      · rw [answers (exec_setField_one hb hl hs), advanceStep_chip, busSetAddr_chip]
      · rw [answers (exec_setField_two hb hl hs), advanceStep_chip, busRead_chip]
      · rw [answers (exec_restartIntegrity_zero hb hl hs), advanceStep_chip, busSetAddr_chip]
      · rw [answers (exec_restartIntegrity_one hb hl hs), advanceStep_chip, busRead_chip]
    rw [ht, settleChip_passive henv]

/-! ### The integrity restart inside SET_FIELD (R156) -/

/-- Settles O45: both commands run the same step of the restart, and it reads neither the latches nor the step number. -/
theorem setFieldEndsInTheIntegrityRestart : Obligations.SetFieldEndsInTheIntegrityRestart := by
  intro f v s s' n hn hb hl hs hs'
  have hl' : latchedCommand s' = some .restartIntegrity := by
    subst hs'
    exact latchedCommand_of_decode (decode_restartIntegrity _ s.cValue)
  have hx : exec (.setField f v) s = integrityRestart n s := (exec_busy hb hl).trans (setFieldRow_succ hs)
  have hx' : exec .restartIntegrity s' = integrityRestart n s' := by
    subst hs'
    exact exec_busy hb hl'
  rw [hx, hx', hs']
  interval_cases n
  · exact ⟨_, _, integrityRestart_zero _, integrityRestart_zero _, rfl, by simp, rfl, rfl, rfl, rfl, rfl, rfl, rfl⟩
  · exact ⟨_, _, integrityRestart_one _, integrityRestart_one _, rfl, by simp, rfl, rfl, rfl, rfl, rfl, rfl, rfl⟩
  · exact ⟨_, _, integrityRestart_two _, integrityRestart_two _, rfl, by simp, rfl, rfl, rfl, rfl, rfl, rfl, rfl⟩

/-! ### A command run to its completion (R151, R157, R244) -/

/-- One step of a row of `total` transactions at its step `n`: one transaction, after which the unit advances, and
responds after the last (R151, R157). -/
def StepsRow (n total : Nat) (s : State) (o : Host.Outcome State Fault Refusal) : Prop :=
  ∃ u, Transacts s u ∧
    ((n + 1 < total ∧ o = .next (advanceStep u)) ∨ (n + 1 = total ∧ ∃ r, o = .next (respond r u)))

theorem integrityRestart_stepsRow {n : Nat} (s : State) (hn : n < 3) : StepsRow n 3 s (integrityRestart n s) := by
  have hsecond : tableAddr s.params (secondAddr s.params) := ⟨.second, rfl⟩
  interval_cases n
  · exact ⟨_, transacts_busSetAddr hsecond, .inl ⟨by omega, integrityRestart_zero s⟩⟩
  · exact ⟨_, transacts_busRead s, .inl ⟨by omega, integrityRestart_one s⟩⟩
  · exact ⟨_, transacts_busWrite _ hsecond, .inr ⟨rfl, 0, integrityRestart_two s⟩⟩

theorem readRow_stepsRow {s : State} (f : TimeField) (result : Byte → Nat) (hs : s.seqStep < 2) :
    StepsRow s.seqStep 2 s (readRow f result s) := by
  obtain hs | hs : s.seqStep = 0 ∨ s.seqStep = 1 := by omega
  · exact ⟨_, transacts_busSetAddr ⟨f, rfl⟩, .inl ⟨by omega, readRow_zero hs⟩⟩
  · exact ⟨_, transacts_busRead s, .inr ⟨by omega, _, readRow_one hs⟩⟩

/-- In an accepted machine every step number of a command has its step (R157). -/
theorem rowOf_stepsRow {i : Instr} {s : State} (hp : s.params.wf = true) (hw : i.wf s.params.valueBits = true)
    (hs : s.seqStep < transactions i) : StepsRow s.seqStep (transactions i) s (rowOf i s) := by
  cases i with
  | setField f v =>
    obtain ⟨d, -, hd, -⟩ := writeData_spec hp f (Instr.wf_setField.mp hw).1
    obtain hs0 | ⟨n, hn⟩ : s.seqStep = 0 ∨ ∃ n, s.seqStep = n + 1 := by
      cases s.seqStep with
      | zero => exact .inl rfl
      | succ n => exact .inr ⟨n, rfl⟩
    · exact ⟨_, transacts_busWrite d ⟨f, rfl⟩, .inl ⟨by simp [hs0, transactions], setFieldRow_zero hs0 hd⟩⟩
    · rw [hn, transactions] at hs ⊢
      obtain ⟨u, hu, hend⟩ := integrityRestart_stepsRow s (Nat.lt_of_succ_lt_succ hs)
      rw [rowOf, setFieldRow_succ hn]
      exact ⟨u, hu, hend.imp (And.imp_left Nat.succ_lt_succ) (And.imp_left (congrArg (· + 1)))⟩
  | getField f => exact readRow_stepsRow f _ hs
  | getFieldRaw f => exact readRow_stepsRow f _ hs
  | restartIntegrity => exact integrityRestart_stepsRow s hs

namespace KeepsUnit

variable {s u : State} (h : KeepsUnit s u)
include h

theorem commands : u.commands = s.commands := (congrArg State.commands h.eq :)
theorem inputs : u.inputs = s.inputs := (congrArg State.inputs h.eq :)

end KeepsUnit

/-- The unit runs `i`, with `k` of its transactions left, and each of the next `k` events that is listed is an advance. -/
structure Underway (i : Instr) (k : Nat) (s : State) : Prop where
  wf : s.params.wf = true
  phase : s.phase = .busy
  notHung : s.busHung = false
  latched : latchedCommand s = some i
  noResponse : s.rspValid = false
  left : s.seqStep + k = transactions i
  script : ∀ x ∈ s.inputs.take k, x.event = .advance

namespace Underway

variable {i : Instr} {k : Nat} {s : State}

theorem event (h : Underway i (k + 1) s) : (nextInput s).event = .advance := by
  cases hi : s.inputs with
  | nil => simp [nextInput_nil hi, defaultEvent, h.noResponse]
  | cons x xs =>
    rw [nextInput_cons hi]
    exact h.script x (by simp [hi])

theorem step_eq (h : Underway i (k + 1) s) : step s = rowOf i (takeInput s) :=
  (stepRunsTheLatchedCommand s i h.wf h.event h.phase h.notHung h.latched).trans
    (exec_busy h.phase ((latchedCommand_takeInput s).trans h.latched))

/-- After a transaction that is not the last, one less is left. -/
theorem advance {u : State} (h : Underway i (k + 1) s) (hu : KeepsUnit (takeInput s) u) :
    Underway i k (advanceStep u) where
  wf := (congrArg Params.wf hu.params).trans h.wf
  phase := hu.phase.trans h.phase
  notHung := hu.busHung.trans h.notHung
  latched := hu.latchedCommand.trans h.latched
  noResponse := hu.rspValid.trans h.noResponse
  left := by
    have := h.left
    rw [advanceStep_seqStep, hu.seqStep, takeInput_seqStep]
    omega
  script := fun x hx => by
    rw [advanceStep_inputs, hu.inputs, takeInput_inputs] at hx
    refine h.script x ?_
    cases hi : s.inputs with
    | nil => simp [hi] at hx
    | cons y ys => exact List.mem_cons_of_mem _ (by simpa [hi] using hx)

/-- The next step is the command's last, which responds, or is followed by a further one. -/
theorem step (h : Underway i (k + 1) s) :
    ∃ u, Transacts (takeInput s) u ∧
      ((k ≠ 0 ∧ Machine.step s = .next (advanceStep u) ∧ Underway i k (advanceStep u)) ∨
        (k = 0 ∧ ∃ r, Machine.step s = .next (respond r u))) := by
  have hleft := h.left
  obtain ⟨u, hu, ⟨hlt, ht⟩ | ⟨hlast, r, ht⟩⟩ :=
    rowOf_stepsRow (s := takeInput s) h.wf (wf_of_latchedCommand h.latched) (by rw [takeInput_seqStep]; omega)
  · rw [takeInput_seqStep] at hlt
    exact ⟨u, hu, .inl ⟨by omega, h.step_eq.trans ht, h.advance hu.toKeepsUnit⟩⟩
  · rw [takeInput_seqStep] at hlast
    exact ⟨u, hu, .inr ⟨by omega, r, h.step_eq.trans ht⟩⟩

end Underway

/-- `t` is `s` after `k` transactions of a command and its response (R151). -/
structure Completes (k : Nat) (s t : State) : Prop where
  run : core.run k s = .next t
  phase : t.phase = .idle
  seqStep : t.seqStep = 0
  rspValid : t.rspValid = true
  rspLog : t.rspLog.length = s.rspLog.length + 1
  busLog : t.busLog.length = s.busLog.length + k
  params : t.params = s.params
  inputs : t.inputs = s.inputs.drop k
  commands : t.commands = s.commands
  taken : t.taken = s.taken
  acknowledged : t.acknowledged = s.acknowledged

/-- The last transaction completes its command. -/
theorem completes_one {s u : State} {r : Nat} (hu : Transacts (takeInput s) u) (h : step s = .next (respond r u)) :
    Completes 1 s (respond r u) where
  run := run_succ_of_next h
  phase := rfl
  seqStep := rfl
  rspValid := rfl
  rspLog := by simp [hu.rspLog]
  busLog := hu.log_length
  params := hu.params
  inputs := by simp [hu.inputs]
  commands := hu.commands
  taken := hu.taken
  acknowledged := hu.acknowledged

/-- One transaction before a completion. -/
theorem Completes.succ {k : Nat} {s u t : State} (hu : Transacts (takeInput s) u)
    (h : step s = .next (advanceStep u)) (ht : Completes k (advanceStep u) t) : Completes (k + 1) s t where
  run := (run_succ_of_next h).trans ht.run
  phase := ht.phase
  seqStep := ht.seqStep
  rspValid := ht.rspValid
  rspLog := by simpa [hu.rspLog] using ht.rspLog
  busLog := by
    have := ht.busLog
    rw [advanceStep_busLog, hu.log_length, takeInput_busLog] at this
    omega
  params := ht.params.trans hu.params
  inputs := by simpa [hu.inputs] using ht.inputs
  commands := ht.commands.trans hu.commands
  taken := ht.taken.trans hu.taken
  acknowledged := ht.acknowledged.trans hu.acknowledged

/-- A command underway completes in as many steps as it has transactions left, the last of them from a state `w`. -/
theorem Underway.completes {i : Instr} {k : Nat} {s : State} (h : Underway i (k + 1) s) :
    ∃ w t, Completes (k + 1) s t ∧ Underway i 1 w ∧ w.params = s.params ∧ Machine.step w = .next t := by
  induction k generalizing s with
  | zero =>
    obtain ⟨u, hu, ⟨hk, -⟩ | ⟨-, r, ht⟩⟩ := h.step
    · exact absurd rfl hk
    · exact ⟨s, _, completes_one hu ht, h, rfl, ht⟩
  | succ k ih =>
    obtain ⟨u, hu, ⟨-, ht, hrest⟩ | ⟨hk, -⟩⟩ := h.step
    · obtain ⟨w, t, hcompletes, hw, hparams, hlast⟩ := ih hrest
      exact ⟨w, t, hcompletes.succ hu ht, hw, hparams.trans hu.params, hlast⟩
    · exact absurd hk (Nat.succ_ne_zero k)

/-- A run of one step more begins with a step. -/
theorem step_of_run_succ {k : Nat} {s t : State} (h : core.run (k + 1) s = .next t) :
    ∃ u, step s = .next u ∧ core.run k u = .next t := by
  cases hs : step s with
  | next u => exact ⟨u, rfl, (run_succ_of_next hs).symm.trans h⟩
  | fault e => simp [Host.Core.run, show core.step s = .fault e from hs] at h
  | refused e => simp [Host.Core.run, show core.step s = .refused e from hs] at h

/-- A run goes on from where its first part ends. -/
theorem run_add_of_next {j k : Nat} {s t : State} (h : core.run j s = .next t) :
    core.run (j + k) s = core.run k t := by
  induction j generalizing s with
  | zero => rw [Nat.zero_add, Host.Outcome.next.inj h]
  | succ j ih =>
    obtain ⟨u, hu, hrest⟩ := step_of_run_succ h
    rw [Nat.succ_add, run_succ_of_next hu, ih hrest]

/-- The host acknowledges a pending response when no input is listed (log entry 6). -/
theorem step_acknowledges {s : State} (hw : s.params.wf = true) (hi : s.inputs = []) (hr : s.rspValid = true) :
    step s = .next (acknowledgeResponse (takeInput s)) := by
  rw [step_of_wf hw, nextInput_nil hi, defaultEvent, if_pos hr, runEvent]

/-- The lost commands while a command is pending: the one taken last is not yet among them. -/
theorem lostCommands_pending {s : State} (h : s.phase = .busy ∨ s.rspValid = true) :
    lostCommands s = s.taken - s.acknowledged - 1 := by
  rcases h with hp | hr
  · simp [lostCommands, pendingCommands, hp]
  · simp [lostCommands, pendingCommands, hr]

/-- Settles O46: the command is underway; and where it is the run's last, the counts meet at its acknowledge. -/
theorem acceptedCommandCompletesInItsStepCount : Obligations.AcceptedCommandCompletesInItsStepCount := by
  intro s i hinv hb hh hi hl
  obtain ⟨hr, -, hlt⟩ := hinv.busy hb hl
  obtain ⟨k, hk⟩ : ∃ k, transactions i - s.seqStep = k + 1 := Nat.exists_eq_add_one.mpr (Nat.sub_pos_of_lt hlt)
  rw [hk]
  have hunderway : Underway i (k + 1) s := ⟨hinv.table, hb, hh, hl, hr, by omega, by simp [hi]⟩
  obtain ⟨-, t, ht, -⟩ := hunderway.completes
  refine ⟨t, ht.run, ht.phase, ht.seqStep, ht.rspValid, ht.rspLog, ht.busLog, fun hc hlost => ?_⟩
  have hi' : t.inputs = [] := by rw [ht.inputs, hi, List.drop_nil]
  have hack := step_acknowledges (ht.params ▸ hinv.table) hi' ht.rspValid
  refine ⟨_, (run_add_of_next ht.run).trans (run_succ_of_next hack), ht.phase, rfl, ht.commands.trans hc, ?_, ?_⟩
  · simp [hi']
  · have htaken := hinv.busy_counts hb
    have hanswered := hinv.counts.2
    rw [lostCommands_pending (.inl hb)] at hlost
    have hrsp := ht.rspLog
    have htaken' := ht.taken
    have hack' := ht.acknowledged
    simp only [acknowledgeResponse_rspLog, acknowledgeResponse_taken, acknowledgeResponse_acknowledged,
      takeInput_rspLog, takeInput_taken, takeInput_acknowledged, takeInput_rspValid, ht.rspValid, if_true]
    omega

/-! ### Whole write commands (R156, R158, R162) -/

/-- At an advance a ready unit accepts the command on the port that the decoder takes (R150). -/
theorem step_accepts {s : State} {i : Instr} {c : Command} {cs : List Command} (hw : s.params.wf = true)
    (he : (nextInput s).event = .advance) (hr : Ready s) (hc : s.commands = c :: cs)
    (hd : decode s.params.valueBits c = .ok i) : step s = .next (latchCommand i (takeCommand (takeInput s))) := by
  have hwf : i.wf s.params.valueBits = true := wf_of_decode hd
  have hready : Ready (takeCommand (takeInput s)) := hr
  calc step s = unitStep (takeInput s) := by rw [step_of_wf hw, he, runEvent]
    _ = exec i (takeCommand (takeInput s)) := unitStep_ready (s := takeInput s) hr hc hd
    _ = .next (latchCommand i (takeCommand (takeInput s))) := exec_accepts hready hwf

/-- An accepted command is underway, when the events after its acceptance are advances. -/
theorem underway_of_accept {s : State} {i : Instr} {d : Draw} {ds : List Draw} {rest : List Input} (hinv : Invariant s)
    (hr : Ready s) (hw : i.wf s.params.valueBits = true) (hn : ds.length = transactions i)
    (hi : s.inputs = advanceWith d :: ds.map advanceWith ++ rest) :
    Underway i (transactions i) (latchCommand i (takeCommand (takeInput s))) where
  wf := hinv.table
  phase := rfl
  notHung := (hinv.ready hr).2.2
  latched := latchedCommand_latchCommand hw
  noResponse := hr.2
  left := Nat.zero_add _
  script := fun x hx => by
    have htake : (s.inputs.tail).take (transactions i) = ds.map advanceWith := by simp [hi, ← hn]
    obtain ⟨e, -, rfl⟩ := List.mem_map.mp (htake ▸ hx)
    rfl

/-- The last step of a writing command leaves the integrity flag of a PASSIVE chip 0 (R156, R158). -/
theorem Underway.flag_clear {i : Instr} {s t : State} (h : Underway i 1 s) (henv : s.params.env = .passive)
    (hi : (∃ f v, i = .setField f v) ∨ i = .restartIntegrity) (ht : Machine.step s = .next t) :
    integrityFlag t.params (Memory.readByte t.chip (secondAddr t.params)) = false := by
  have hleft := h.left
  rw [h.step_eq] at ht
  rcases rowOf_write_cases hi ht with ⟨f, v, a, d, rfl, hs, -⟩ | ⟨n, hs, hrestart⟩
  · rw [takeInput_seqStep] at hs
    simp [hs, transactions] at hleft
  · have hlast : n = 2 := by
      rw [takeInput_seqStep] at hs
      rcases hi with ⟨f, v, rfl⟩ | rfl
      · simp only [readStep, transactions] at hs hleft; omega
      · simp only [readStep, transactions] at hs hleft; omega
    rcases integrityRestart_cases hrestart with ⟨rfl, -⟩ | ⟨rfl, -⟩ | ⟨-, rfl⟩
    · cases hlast
    · cases hlast
    · rw [respond_params, busWrite_params, respond_chip, readByte_busWrite_second (s := takeInput s) henv, if_pos rfl]
      exact clearIntegrity_flag _ _

/-- Settles O54: the run ends in the step that rewrites Second with its integrity bit clear. -/
theorem integrityFlagIsClearAfterEveryWriteCommand : Obligations.IntegrityFlagIsClearAfterEveryWriteCommand := by
  intro s c cs i d ds rest hinv henv hp hr hc hd hi hn hscript
  have hadvance : (nextInput s).event = .advance := by rw [nextInput_cons hscript]; rfl
  have haccept := step_accepts hinv.table hadvance ⟨hp, hr⟩ hc hd
  have hunderway := underway_of_accept hinv ⟨hp, hr⟩ (wf_of_decode hd) hn hscript
  obtain ⟨k, hk⟩ : ∃ k, transactions i = k + 1 := Nat.exists_eq_add_one.mpr (transactions_pos i)
  rw [hk] at hunderway hn ⊢
  obtain ⟨w, t, ht, hw, hparams, hlast⟩ := hunderway.completes
  refine ⟨t, ?_, ht.phase, ht.rspValid, ?_, ?_, hw.flag_clear (hparams ▸ henv) hi hlast⟩
  · rw [Nat.add_comm, run_succ_of_next haccept, ht.run]
  · simp [ht.commands, hc]
  · simp [ht.inputs, hscript, ← hn]

/-- `s` with another operand in `c_value`. -/
def withValue (c : Nat) (s : State) : State := { s with cValue := c }

/-- SET_FIELD's row meets `c_value` in the byte of its field write only (R129, R152). -/
theorem setFieldRow_withValue {f : TimeField} {v v' : Int} (c : Nat) {s t : State}
    (hd : writeData (s.params.table.row f) v' = writeData (s.params.table.row f) v)
    (h : setFieldRow f v s = .next t) : setFieldRow f v' (withValue c s) = .next (withValue c t) := by
  have hmux : writeMux s.params .field f v' s.rdLatch = writeMux s.params .field f v s.rdLatch := by
    simp only [writeMux, hd]
  have hs' : (withValue c s).seqStep = s.seqStep := rfl
  unfold setFieldRow at h ⊢
  rw [hs']
  split at h
  · rcases muxWrite_cases h with ⟨a, b, hm, ht⟩ | ⟨-, ht⟩
    · obtain rfl := Host.Outcome.next.inj ht
      have hm' : writeMux (withValue c s).params .field f v' (withValue c s).rdLatch = some (a, b) := hmux.trans hm
      simp only [muxWrite, hm']
      rfl
    · cases ht
  · rcases integrityRestart_cases h with ⟨rfl, rfl⟩ | ⟨rfl, rfl⟩ | ⟨rfl, rfl⟩ <;> rfl

/-- Two operands with the same remainder run alike (R162). -/
theorem Underway.run_withValue {f : TimeField} {v v' : Int} {c k : Nat} {s t : State}
    (h : Underway (.setField f v) k s) (hl : latchedCommand (withValue c s) = some (.setField f v'))
    (hd : writeData (s.params.table.row f) v' = writeData (s.params.table.row f) v)
    (ht : core.run k s = .next t) : core.run k (withValue c s) = .next (withValue c t) := by
  induction k generalizing s with
  | zero => rw [← Host.Outcome.next.inj ht]; rfl
  | succ k ih =>
    have h' : Underway (.setField f v') (k + 1) (withValue c s) :=
      ⟨h.wf, h.phase, h.notHung, hl, h.noResponse, h.left, h.script⟩
    have step_withValue : ∀ {w}, Machine.step s = .next w → Machine.step (withValue c s) = .next (withValue c w) :=
      fun hw => h'.step_eq.trans (setFieldRow_withValue c (s := takeInput s) hd (h.step_eq.symm.trans hw))
    obtain ⟨u, hu, ⟨-, hstep, hrest⟩ | ⟨rfl, r, hstep⟩⟩ := h.step
    · rw [run_succ_of_next hstep] at ht
      rw [run_succ_of_next (step_withValue hstep)]
      have hl' : latchedCommand (withValue c (advanceStep u)) = some (.setField f v') :=
        (latchedCommand_congr (s := withValue c s) (t := withValue c (advanceStep u)) hu.cOp hu.cField rfl
          hu.params).trans hl
      have hd' : writeData (u.params.table.row f) v' = writeData (u.params.table.row f) v := by
        rw [hu.params]; exact hd
      exact ih hrest hl' hd' ht
    · rw [run_succ_of_next hstep] at ht
      rw [run_succ_of_next (step_withValue hstep), ← Host.Outcome.next.inj ht]
      rfl

/-- Settles O57: after acceptance the two runs differ in `c_value` only, and stay so. -/
theorem setFieldOfRemainderIsTheSameRun : Obligations.SetFieldOfRemainderIsTheSameRun := by
  intro f v v' s s' d d0 d1 d2 d3 cs rest hinv henv hp hr h0 hlt hv' hc hi hs'
  have hle : v.toNat % (s.params.table.row f).mod ≤ v.toNat := Nat.mod_le _ _
  have hwf : (Instr.setField f v).wf s.params.valueBits = true := Instr.wf_setField.mpr ⟨h0, hlt⟩
  have hwf' : (Instr.setField f v').wf s.params.valueBits = true := Instr.wf_setField.mpr ⟨by omega, by omega⟩
  have hdata : writeData (s.params.table.row f) v' = writeData (s.params.table.row f) v := by
    refine writeData_congr (by omega) h0 ?_
    rw [hv', Int.toNat_natCast, Nat.mod_mod]
  have hadvance : (nextInput s).event = .advance := by rw [nextInput_cons hi]; rfl
  have haccept := step_accepts hinv.table hadvance ⟨hp, hr⟩ hc (decodeOfEncodeIsTheCommand _ _ hwf)
  have hlatch : latchCommand (.setField f v') (takeCommand (takeInput s')) =
      withValue v'.toNat (latchCommand (.setField f v) (takeCommand (takeInput s))) := by
    subst hs'
    simp [latchCommand, takeCommand, takeInput, withValue, nextInput, hc, hi]
  have haccept' : step s' = .next (withValue v'.toNat (latchCommand (.setField f v) (takeCommand (takeInput s)))) := by
    rw [← hlatch]
    subst hs'
    exact step_accepts (s := { s with commands := encode s.params.valueBits (.setField f v') :: cs }) hinv.table
      hadvance ⟨hp, hr⟩ rfl (decodeOfEncodeIsTheCommand _ _ hwf')
  have hunderway : Underway (.setField f v) 4 (latchCommand (.setField f v) (takeCommand (takeInput s))) :=
    underway_of_accept (ds := [d0, d1, d2, d3]) hinv ⟨hp, hr⟩ hwf rfl hi
  have hl' : latchedCommand (withValue v'.toNat (latchCommand (.setField f v) (takeCommand (takeInput s)))) =
      some (.setField f v') :=
    latchedCommand_latchCommand (s := takeCommand (takeInput s)) hwf'
  obtain ⟨-, t, ht, -⟩ := hunderway.completes
  refine ⟨t, withValue v'.toNat t, (run_succ_of_next haccept).trans ht.run,
    (run_succ_of_next haccept').trans (hunderway.run_withValue hl' hdata ht.run), rfl, rfl, rfl⟩

/-! ### The integrity flag in every step (R33, R158) -/

/-- A byte that a field write carries to the Second register has the integrity bit 0 (R122 WF3, WF4). -/
theorem integrityFlag_of_writeData {p : Params} (hp : p.wf = true) {v : Int} {d : Byte}
    (h : writeData p.table.second v = some d) : integrityFlag p d = false := by
  have hv : 0 ≤ v := by
    unfold writeData at h
    split at h
    · rename_i w hw
      exact (normalise_cases hw).1
    · cases h
  obtain ⟨b, -, hb, -, -, hmask⟩ := writeData_spec hp .second hv
  obtain rfl := Option.some.inj (hb.symm.trans h)
  have hout : p.table.second.mask.getLsbD p.integrityBit.val = false := Params.wf_integrityMask hp
  have hbit : (b &&& ~~~p.table.second.mask).getLsbD p.integrityBit.val = false := by
    rw [show b &&& ~~~p.table.second.mask = 0#8 from hmask, BitVec.getLsbD_zero]
  rw [BitVec.getLsbD_and, BitVec.getLsbD_not, hout] at hbit
  simpa [integrityFlag] using hbit

/-- Under PASSIVE only a BusWrite to another register, with `flagDraw`, sets the integrity flag (R33, R158). -/
theorem flagDraw_of_rowOf_sets_flag {i : Instr} {s t : State} (hw : s.params.wf = true)
    (henv : s.params.env = .passive) (h : rowOf i s = .next t)
    (hclear : integrityFlag s.params (Memory.readByte s.chip (secondAddr s.params)) = false)
    (hset : integrityFlag s.params (Memory.readByte t.chip (secondAddr s.params)) = true) :
    s.draw.flagDraw = true ∧
      ∃ a d, a ≠ secondAddr s.params ∧ t.busLog = s.busLog ++ [.write s.params.devAddr a d] := by
  have chip_kept_absurd : ¬t.chip = s.chip := fun hchip => by simp [hchip, hclear] at hset
  rcases rowOf_cases h with ⟨a, d, sel, f, v, after, hm, rfl, hafter⟩ | ⟨rfl, -⟩ | ⟨-, rfl | ⟨r, rfl⟩⟩
  · have ht : (after (busWrite a d s)).chip = (busWrite a d s).chip ∧
        (after (busWrite a d s)).busLog = (busWrite a d s).busLog := by
      rcases hafter with ⟨rfl, -⟩ | ⟨rfl, -⟩ <;> exact ⟨rfl, rfl⟩
    rw [ht.1, readByte_busWrite_passive henv] at hset
    rw [ht.2]
    by_cases ha : secondAddr s.params = a
    · have hflag : integrityFlag s.params d = false := by
        rcases writeMux_cases hm with ⟨-, haddr, hd⟩ | ⟨-, -, rfl⟩
        · obtain rfl := eq_second_of_addr hw (haddr.symm.trans ha.symm)
          exact integrityFlag_of_writeData hw hd
        · exact clearIntegrity_flag _ _
      simp [ha, hflag] at hset
    · refine ⟨?_, a, d, Ne.symm ha, rfl⟩
      by_contra hdraw
      simp [ha, hdraw, hclear] at hset
  · exact absurd (settleChip_passive henv _) chip_kept_absurd
  · exact absurd (settleChip_passive henv _) chip_kept_absurd
  · exact absurd (settleChip_passive henv _) chip_kept_absurd

/-- The same of a transaction that lands (R232). -/
theorem flagDraw_of_landIf_sets_flag {landed : Bool} {s : State} (hw : s.params.wf = true)
    (henv : s.params.env = .passive)
    (hclear : integrityFlag s.params (Memory.readByte s.chip (secondAddr s.params)) = false)
    (hset : integrityFlag s.params (Memory.readByte (landIf landed s).chip (secondAddr s.params)) = true) :
    s.draw.flagDraw = true ∧
      ∃ a d, a ≠ secondAddr s.params ∧ (landIf landed s).busLog = s.busLog ++ [.write s.params.devAddr a d] := by
  rcases landIf_cases landed s with hs | ⟨i, u, -, -, hb, hl, hx, hs⟩
  · simp [hs, hclear] at hset
  · rw [hs] at hset ⊢
    exact flagDraw_of_rowOf_sets_flag hw henv (t := u) ((exec_busy hb hl).symm.trans hx) hclear hset

/-- Settles O55: only a row's step and a landing reach the chip. -/
theorem integrityFlagIsSetOnlyByAFlagDraw : Obligations.IntegrityFlagIsSetOnlyByAFlagDraw := by
  intro s t hinv henv hstep hclear hset
  have chip_kept_absurd : ¬t.chip = s.chip := fun hchip => by simp [hchip, hclear] at hset
  cases moves_of_step hstep with
  | rest _ => exact absurd rfl chip_kept_absurd
  | present c _ => exact absurd rfl chip_kept_absurd
  | acknowledge _ => exact absurd rfl chip_kept_absurd
  | accept i c cs _ hr => exact absurd rfl chip_kept_absurd
  | fault e c cs _ hr => exact absurd rfl chip_kept_absurd
  | row i t _ hb hh hl ht => exact flagDraw_of_rowOf_sets_flag (s := takeInput s) hinv.table henv ht hclear hset
  | hang landed _ hb => exact flagDraw_of_landIf_sets_flag (s := takeInput s) hinv.table henv hclear hset
  | reset landed _ => exact flagDraw_of_landIf_sets_flag (s := takeInput s) hinv.table henv hclear hset

/-! ### Lost commands (R161, R203, R230, R232) -/

/-- A response pending is of a unit in IDLE (R21). -/
theorem Invariant.idle_of_rspValid {s : State} (h : Invariant s) (hr : s.rspValid = true) : s.phase = .idle := by
  have hc := h.control
  unfold ControlInv at hc
  split at hc
  · assumption
  · simp [hr] at hc
  · simp [hr] at hc

/-- A reset of a BUSY unit, a reset that takes a response back, or a command that faults. -/
def Loses (s t : State) : Prop :=
  ((s.phase = .busy ∨ s.rspValid = true) ∧ ∃ landed, (nextInput s).event = .reset landed) ∨
    (s.phase ≠ .fault ∧ t.phase = .fault)

/-- A step that resets nothing and keeps out of FAULT loses no command. -/
theorem not_loses {s t : State} (he : ∀ landed, (nextInput s).event ≠ .reset landed)
    (ht : t.phase = .fault → s.phase = .fault) : ¬Loses s t := by
  rintro (⟨-, landed, hl⟩ | ⟨hs, hf⟩)
  · exact he landed hl
  · exact hs (ht hf)

/-- The lost commands while none is pending: every one taken and not acknowledged. -/
theorem lostCommands_not_pending {s : State} (hb : s.phase ≠ .busy) (hr : s.rspValid = false) :
    lostCommands s = s.taken - s.acknowledged := by
  simp [lostCommands, pendingCommands, hb, hr]

/-- A pending command has been taken and not acknowledged. -/
theorem Invariant.acknowledged_lt_taken {s : State} (h : Invariant s) (hp : s.phase = .busy ∨ s.rspValid = true) :
    s.acknowledged < s.taken := by
  obtain ⟨htaken, hanswered⟩ := h.counts
  rcases hp with hb | hr
  · exact Nat.lt_of_le_of_lt hanswered (h.busy_counts hb)
  · have hack := h.run.2
    rw [if_pos hr] at hack
    exact Nat.lt_of_lt_of_le hack htaken

/-- A step that loses a command adds one lost command, and every other step keeps their number. -/
theorem lostCommands_step {s t : State} (h : Invariant s) (hstep : step s = .next t) :
    (Loses s t ∧ lostCommands t = lostCommands s + 1) ∨ (¬Loses s t ∧ lostCommands t = lostCommands s) := by
  cases moves_of_step hstep with
  | rest he => exact .inr ⟨not_loses he id, lostCommands_congr rfl rfl rfl rfl⟩
  | present c he => exact .inr ⟨not_loses (by simp [he]) id, lostCommands_congr rfl rfl rfl rfl⟩
  | acknowledge he =>
    refine .inr ⟨not_loses (by simp [he]) id, ?_⟩
    cases hr : s.rspValid with
    | false =>
      rw [acknowledgeResponse_of_not_valid (s := takeInput s) hr]
      exact lostCommands_congr rfl rfl rfl rfl
    | true =>
      have hidle := h.idle_of_rspValid hr
      rw [lostCommands_pending (.inr hr), lostCommands_not_pending (by simp [hidle]) rfl]
      simp [hr, Nat.sub_sub]
  | accept i c cs he hr =>
    refine .inr ⟨not_loses (by simp [he]) (fun hf => nomatch hf), ?_⟩
    rw [lostCommands_pending (.inl rfl), lostCommands_not_pending (by simp [hr.1]) hr.2]
    exact Nat.sub_right_comm (s.taken + 1) s.acknowledged 1
  | fault e c cs he hr =>
    refine .inl ⟨.inr ⟨by simp [hr.1], rfl⟩, ?_⟩
    have hbefore : lostCommands s = s.taken - s.acknowledged := lostCommands_not_pending (by simp [hr.1]) hr.2
    have hafter : lostCommands (raiseFault e (takeCommand (takeInput s))) = s.taken + 1 - s.acknowledged :=
      lostCommands_not_pending (by simp) hr.2
    rw [hbefore, hafter]
    exact Nat.succ_sub (h.counts.2.trans h.counts.1)
  | row i t he hb hh hl ht =>
    obtain ⟨u, hu, rfl | ⟨r, rfl⟩⟩ := rowOf_transacts ht
    · exact .inr ⟨not_loses (by simp [he]) fun hf => hu.phase.symm.trans hf,
        lostCommands_congr hu.phase hu.rspValid hu.taken hu.acknowledged⟩
    · refine .inr ⟨not_loses (by simp [he]) (fun hf => nomatch hf), ?_⟩
      rw [lostCommands_pending (.inl hb), lostCommands_pending (.inr rfl)]
      simp [hu.taken, hu.acknowledged]
  | hang landed he hb =>
    have hu := landIf_keepsUnit landed (takeInput s)
    exact .inr ⟨not_loses (by simp [he]) fun hf => hu.phase.symm.trans hf,
      lostCommands_congr hu.phase hu.rspValid hu.taken hu.acknowledged⟩
  | reset landed he =>
    have hu := landIf_keepsUnit landed (takeInput s)
    have hlost : lostCommands (resetUnit (landIf landed (takeInput s))) = s.taken - s.acknowledged := by
      rw [lostCommands_not_pending (by simp) rfl]
      simp [hu.taken, hu.acknowledged]
    by_cases hp : s.phase = .busy ∨ s.rspValid = true
    · have hgap := h.acknowledged_lt_taken hp
      refine .inl ⟨.inl ⟨hp, landed, he⟩, ?_⟩
      rw [hlost, lostCommands_pending hp]
      omega
    · obtain ⟨hb, hr⟩ := not_or.mp hp
      refine .inr ⟨?_, hlost.trans (lostCommands_not_pending hb (by simpa using hr)).symm⟩
      rintro (⟨hp', -⟩ | ⟨-, hf⟩)
      · exact hp hp'
      · cases hf

/-- Settles O60, by what a step can lose; a completed run has lost nothing. -/
theorem runThatLostACommandIsNeverCompleted : Obligations.RunThatLostACommandIsNeverCompleted := by
  intro s t loses hinv hstep hloses
  have hiff : loses ↔ Loses s t := hloses
  have hcompleted : 0 < lostCommands t → ¬Completed t := fun hpos hc => hpos.ne' (lostCommands_of_completed hc)
  rcases lostCommands_step hinv hstep with ⟨hl, hcount⟩ | ⟨hl, hcount⟩
  · exact ⟨fun _ => hcount, fun hn => absurd (hiff.mpr hl) hn, hcompleted⟩
  · exact ⟨fun hy => absurd (hiff.mp hy) hl, fun _ => hcount, hcompleted⟩

end Sys2Proof.Machine
end

section
/-! PROOFS. The exceptions family (60_exceptions.md R200 to R207): which words the decoder turns down and by which cause,
what a fault does to the unit and what leaves it, that no step stops the machine, and the unit on a hung bus. -/

namespace Sys2Proof.Machine

/-! ### The decoder's faults (R201, R202) -/

/-- Every verdict of the decoder that is a fault, with its cause and no earlier one. -/
theorem decode_error_cases {n : Nat} {c : Command} {e : FaultCause} (h : decode n c = .error e) :
    (e = .reservedBits ∧ (c.rsv ≠ 0#3 ∨ c.op = 3#2 ∧ c.tag ≠ 0#3)) ∨
      (e = .illegalField ∧ c.rsv = 0#3 ∧ c.op ≠ 3#2 ∧ c.tag = 7#3) ∨
      (e = .negativeValue ∧ c.rsv = 0#3 ∧ c.op = 0#2 ∧ c.tag ≠ 7#3 ∧ operandValue n c.opnd < 0) := by
  unfold decode at h
  split at h
  · rename_i hr
    exact .inl ⟨(Except.error.inj h).symm, .inl hr⟩
  · rename_i hr
    have hr := not_not.mp hr
    split at h
    · rename_i ho
      split at h
      · rename_i ht
        exact .inl ⟨(Except.error.inj h).symm, .inr ⟨ho, ht⟩⟩
      · cases h
    · rename_i ho
      split at h
      · rename_i ht
        exact .inr (.inl ⟨(Except.error.inj h).symm, hr, ho, TimeField.ofTag_eq_none.mp ht⟩)
      · rename_i f hf
        have ht : c.tag ≠ 7#3 := fun h7 => by simp [TimeField.ofTag_eq_none.mpr h7] at hf
        split at h
        · rename_i h0
          split at h
          · rename_i hv
            exact .inr (.inr ⟨(Except.error.inj h).symm, hr, h0, ht, hv⟩)
          · cases h
        · split at h
          · cases h
          · cases h

/-- RESERVED_BITS is reported whenever a reserved bit is set: it has the first place (R202). -/
theorem decode_eq_reservedBits_iff {n : Nat} {c : Command} :
    decode n c = .error .reservedBits ↔ c.rsv ≠ 0#3 ∨ c.op = 3#2 ∧ c.tag ≠ 0#3 := by
  refine ⟨fun h => ?_, decode_reservedBits n⟩
  rcases decode_error_cases h with ⟨-, hcause⟩ | ⟨he, -⟩ | ⟨he, -⟩
  · exact hcause
  · cases he
  · cases he

/-- ILLEGAL_FIELD is reported where no reserved bit is set (R202). -/
theorem decode_eq_illegalField_iff {n : Nat} {c : Command} :
    decode n c = .error .illegalField ↔ c.rsv = 0#3 ∧ c.op ≠ 3#2 ∧ c.tag = 7#3 := by
  refine ⟨fun h => ?_, fun ⟨hr, ho, ht⟩ => ?_⟩
  · rcases decode_error_cases h with ⟨he, -⟩ | ⟨-, hcause⟩ | ⟨he, -⟩
    · cases he
    · exact hcause
    · cases he
  · have hd := decode_illegalField n c.opnd ho
    rwa [← ht, headerOf_op_tag hr] at hd

/-- Every tag but 7 is the tag of a field (R63). -/
theorem exists_tag_eq {t : BitVec 3} (h : t ≠ 7#3) : ∃ f : TimeField, f.tag = t := by
  obtain ⟨f, hf⟩ := Option.ne_none_iff_exists'.mp (mt TimeField.ofTag_eq_none.mp h)
  exact ⟨f, TimeField.tag_of_ofTag hf⟩

/-- NEGATIVE_VALUE is reported only of a SET_FIELD with a field of its own (R64, R202). -/
theorem decode_eq_negativeValue_iff {n : Nat} {c : Command} :
    decode n c = .error .negativeValue ↔
      c.rsv = 0#3 ∧ c.op = 0#2 ∧ c.tag ≠ 7#3 ∧ operandValue n c.opnd < 0 := by
  refine ⟨fun h => ?_, fun ⟨hr, ho, ht, hv⟩ => ?_⟩
  · rcases decode_error_cases h with ⟨he, -⟩ | ⟨he, -⟩ | ⟨-, hcause⟩
    · cases he
    · cases he
    · exact hcause
  · obtain ⟨f, hf⟩ := exists_tag_eq ht
    have hd := decode_setField_negative n f hv
    rwa [hf, ← ho, headerOf_op_tag hr] at hd

/-- Settles O16: the verdict of each cause, and the sign as the top bit of OPND. -/
theorem faultCausesByPriority : Obligations.FaultCausesByPriority := by
  refine ⟨fun n c hn => ⟨decode_eq_reservedBits_iff, decode_eq_illegalField_iff, ?_⟩, by decide, by decide, rfl, rfl, rfl⟩
  rw [← operandValue_neg_iff_testBit hn]
  exact decode_eq_negativeValue_iff

/-! ### Fault entry and FAULT (R203, R204) -/

/-- Ready, with a command on the port that the decoder turns down: the unit's move is fault entry (R203). -/
theorem unitStep_faults {s : State} {e : FaultCause} {c : Command} {cs : List Command} (h : Ready s)
    (hc : s.commands = c :: cs) (hd : decode s.params.valueBits c = .error e) :
    unitStep s = .next (raiseFault e (takeCommand s)) := by
  obtain ⟨hp, hr⟩ := h
  simp [unitStep, hp, hr, acceptFromPort, hc, hd]

/-- At an advance a ready unit faults on the command on the port that the decoder turns down (R203). -/
theorem step_faults {s : State} {e : FaultCause} {c : Command} {cs : List Command} (hw : s.params.wf = true)
    (he : (nextInput s).event = .advance) (hr : Ready s) (hc : s.commands = c :: cs)
    (hd : decode s.params.valueBits c = .error e) :
    step s = .next (raiseFault e (takeCommand (takeInput s))) := by
  rw [step_of_wf hw, he]
  exact unitStep_faults (s := takeInput s) hr hc hd

/-- Settles O52: fault entry, with the command off the port. -/
theorem faultingCommandLeavesThePort : Obligations.FaultingCommandLeavesThePort := by
  intro s c cs cause hw he hp hr hc hd
  rw [step_faults hw he ⟨hp, hr⟩ hc hd, raiseFault, takeCommand, takeInput_commands, takeInput_taken, hc, List.tail_cons]

/-- Settles O22: fault entry touches the code and the phase, and no other move leads to FAULT. -/
theorem faultEntryIsPreciseAndTouchesNothing : Obligations.FaultEntryIsPreciseAndTouchesNothing := by
  refine ⟨fun s c cs cause hinv he hp hr hc hd => ?_, fun s t hstep hs ht => ?_⟩
  · obtain ⟨hzero, -, -⟩ := hinv.ready ⟨hp, hr⟩
    exact ⟨_, step_faults hinv.table he ⟨hp, hr⟩ hc hd, rfl, rfl, hzero, hr, rfl, rfl, rfl, rfl, rfl, rfl, rfl, rfl, rfl,
      rfl⟩
  · cases moves_of_step hstep with
    | rest _ => exact absurd ht hs
    | present c _ => exact absurd ht hs
    | acknowledge _ => exact absurd ht hs
    | accept i c cs _ hr => cases ht
    | fault e c cs _ hr hc hd => exact ⟨hr.1, hr.2, c, cs, e, hc, hd, rfl⟩
    | row i t _ hb hh hl hrow =>
      obtain ⟨u, hu, rfl | ⟨r, rfl⟩⟩ := rowOf_transacts hrow
      · exact absurd (hu.phase.symm.trans ht) hs
      · cases ht
    | hang landed _ hb => exact absurd ((landIf_keepsUnit landed (takeInput s)).phase.symm.trans ht) hs
    | reset landed _ => cases ht

/-- Settles O24: acceptance, fault entry, a command's step and a hang are moves of other phases. -/
theorem onlyResetLeavesFault : Obligations.OnlyResetLeavesFault := by
  intro s t hp hstep
  have not_ready : ¬Ready s := fun hr => by simp [hr.1] at hp
  have not_busy : s.phase ≠ .busy := by simp [hp]
  cases moves_of_step hstep with
  | rest he => exact .inr ⟨he, hp, rfl, rfl, rfl, rfl, [], (List.append_nil _).symm⟩
  | present c he => exact .inr ⟨by simp [he], hp, rfl, rfl, rfl, rfl, [c], rfl⟩
  | acknowledge he => exact .inr ⟨by simp [he], hp, rfl, rfl, rfl, rfl, [], (List.append_nil _).symm⟩
  | accept i c cs _ hr => exact absurd hr not_ready
  | fault e c cs _ hr => exact absurd hr not_ready
  | row i t _ hb => exact absurd hb not_busy
  | hang landed _ hb => exact absurd hb not_busy
  | reset landed he => exact .inl ⟨⟨landed, he⟩, rfl, rfl⟩

/-! ### Progress (R200) -/

/-- A BUSY state that meets the invariant holds a command at one of its steps (R22). -/
theorem Invariant.latched {s : State} (h : Invariant s) (hb : s.phase = .busy) :
    ∃ i, latchedCommand s = some i ∧ s.seqStep < transactions i := by
  have hc := h.control
  simp only [ControlInv, hb] at hc
  obtain ⟨-, -, hlatched⟩ := hc
  exact hlatched

/-- In an accepted machine every step of a command's row answers (R157). -/
theorem rowOf_answers {i : Instr} {s : State} (hp : s.params.wf = true) (hw : i.wf s.params.valueBits = true)
    (hs : s.seqStep < transactions i) : ∃ t, rowOf i s = .next t := by
  obtain ⟨u, -, ⟨-, ht⟩ | ⟨-, r, ht⟩⟩ := rowOf_stepsRow hp hw hs
  · exact ⟨_, ht⟩
  · exact ⟨_, ht⟩

/-- From a state that meets the invariant the unit's move answers: what the port holds is accepted or faults, and what
the latches hold has a step (R200). -/
theorem unitStep_answers {s : State} (h : Invariant s) : ∃ t, unitStep s = .next t := by
  rcases unitStep_cases (s := s) rfl with ht | ⟨c, cs, hr, -, ⟨i, hd, hx⟩ | ⟨e, -, ht⟩⟩ | ⟨hb, -, hlatch⟩
  · exact ⟨_, ht⟩
  · exact ⟨_, hx.symm.trans (exec_accepts (s := takeCommand s) hr (wf_of_decode hd))⟩
  · exact ⟨_, ht⟩
  · obtain ⟨i, hl, hs⟩ := h.latched hb
    rcases hlatch with ⟨j, hj, hx⟩ | ⟨hnone, -⟩
    · obtain rfl := Option.some.inj (hl.symm.trans hj)
      obtain ⟨t, ht⟩ := rowOf_answers h.table (wf_of_latchedCommand hl) hs
      exact ⟨t, hx.symm.trans ((exec_busy hb hl).trans ht)⟩
    · simp [hl] at hnone

/-- Settles O41, event by event. -/
theorem noStepStopsTheMachine : Obligations.NoStepStopsTheMachine := by
  intro s hinv
  rcases step_cases (s := s) rfl with ⟨hw, -⟩ | ⟨-, hevent⟩
  · simp [hinv.table] at hw
  · rcases hevent with ⟨-, hu⟩ | ⟨c, -, ht⟩ | ⟨-, ht⟩ | ⟨-, -, ht⟩ | ⟨he, hr, ht⟩ | ⟨-, ht⟩ | ⟨landed, -, ht⟩ |
      ⟨landed, -, ht⟩
    · obtain ⟨t, ht⟩ := unitStep_answers hinv.takeInput
      exact .inl ⟨t, hu.symm.trans ht⟩
    · exact .inl ⟨_, ht⟩
    · exact .inl ⟨_, ht⟩
    · exact .inl ⟨_, ht⟩
    · exact .inr ⟨ht, he, hr⟩
    · exact .inl ⟨_, ht⟩
    · exact .inl ⟨_, ht⟩
    · exact .inl ⟨_, ht⟩

/-! ### The hung bus (R207) -/

/-- On a hung bus nothing further lands: the hang has said what became of the transaction (log entry 10). -/
theorem landIf_of_hung {s : State} (landed : Bool) (hh : s.busHung = true) : landIf landed s = s :=
  if_neg fun hc => by simp [hh] at hc

/-- Settles O47: the step answers a move, and on a hung bus no move but reset reaches the unit, the chip or the bus. -/
theorem hungBusLeavesTheUnitStuck : Obligations.HungBusLeavesTheUnitStuck := by
  intro s hinv hb hh hreset hread
  have hr : s.rspValid = false := Bool.eq_false_iff.mpr fun hr => by simp [hinv.idle_of_rspValid hr] at hb
  have not_ready : ¬Ready s := fun h => by simp [h.1] at hb
  rcases noStepStopsTheMachine s hinv with ⟨t, hstep⟩ | ⟨-, he, -⟩
  · refine ⟨t, hstep, ?_⟩
    cases moves_of_step hstep with
    | rest _ => exact ⟨hb, hh, rfl, rfl, rfl, hr, rfl, rfl⟩
    | present c _ => exact ⟨hb, hh, rfl, rfl, rfl, hr, rfl, rfl⟩
    | acknowledge _ => exact ⟨hb, hh, rfl, rfl, rfl, rfl, rfl, rfl⟩
    | accept i c cs _ hready => exact absurd hready not_ready
    | fault e c cs _ hready => exact absurd hready not_ready
    | row i t _ _ hnot => simp [hh] at hnot
    | hang landed _ _ =>
      rw [landIf_of_hung landed (s := takeInput s) hh]
      exact ⟨hb, rfl, rfl, rfl, rfl, hr, rfl, rfl⟩
    | reset landed he => exact absurd he (hreset landed)
  · exact absurd he hread

end Sys2Proof.Machine
end

section
/-! PROOFS. The reset and hazards family (70_reset_and_hazards.md R230 to R232, R239): what a reset does to the unit, what it
leaves of a transaction, and of a command, that it cuts off, and the state after it. -/

namespace Sys2Proof.Machine

/-! ### What a reset step answers (R230 to R232) -/

/-- At a reset the outstanding transaction lands or not, and the unit is reset. -/
theorem step_resets {s : State} {landed : Bool} (hw : s.params.wf = true) (he : (nextInput s).event = .reset landed) :
    step s = .next (resetUnit (landIf landed (takeInput s))) := by
  rw [step_of_wf hw, he, runEvent, resetEvent]

/-- Nothing lands where the event says so, where no transaction is outstanding, or where the bus already hung (R232, log
entry 10). -/
theorem landIf_eq_self {landed : Bool} {s : State} (h : landed = false ∨ s.phase ≠ .busy ∨ s.busHung = true) :
    landIf landed s = s := by
  rcases landIf_cases landed s with hs | ⟨-, -, hland, hh, hb, -⟩
  · exact hs
  · simp [hland, hh, hb] at h

/-- Settles O48: what lands at the reset keeps the unit, and the reset itself spares the chip. -/
theorem resetAbortsTheCommandAndSparesTheChip : Obligations.ResetAbortsTheCommandAndSparesTheChip := by
  intro s landed hw he
  have hu : KeepsUnit (takeInput s) (landIf landed (takeInput s)) := landIf_keepsUnit landed (takeInput s)
  refine ⟨_, step_resets hw he, rfl, rfl, rfl, rfl, hu.params, hu.rspLog, fun hnone => ?_⟩
  rw [landIf_eq_self (s := takeInput s) (hnone.imp_right .inl)]
  exact ⟨rfl, rfl, rfl⟩

/-- Settles O49: landed, the transaction has the effect of its completed step; not landed, or on a hung bus, none. -/
theorem outstandingTransactionLandsOrNotAtReset : Obligations.OutstandingTransactionLandsOrNotAtReset := by
  intro s landed i u hw he hb hl hx
  have hu : KeepsUnit (takeInput s) (landIf landed (takeInput s)) := landIf_keepsUnit landed (takeInput s)
  have hl' : latchedCommand (takeInput s) = some i := (latchedCommand_takeInput s).trans hl
  refine ⟨_, step_resets hw he, hu.commands, rfl, fun hland hh => ?_, fun hnone => ?_⟩
  · rw [hland, landIf_true (s := takeInput s) hh, landOutstanding_of_exec (s := takeInput s) hb hl' hx]
    exact ⟨rfl, rfl, rfl⟩
  · rw [landIf_eq_self (s := takeInput s) (hnone.imp_right .inr)]
    exact ⟨rfl, rfl, rfl⟩

/-! ### A SET_FIELD cut off after its field write (R232, R239) -/

/-- SET_FIELD's field write is its step 0 (R152, R157). -/
theorem step_writes_field {s : State} {f : TimeField} {v : Int} {data : Byte} (hw : s.params.wf = true)
    (he : (nextInput s).event = .advance) (hb : s.phase = .busy) (hh : s.busHung = false)
    (hl : latchedCommand s = some (.setField f v)) (hs : s.seqStep = 0)
    (hdata : writeData (s.params.table.row f) v = some data) :
    step s = .next (advanceStep (busWrite (s.params.table.row f).addr data (takeInput s))) :=
  (stepRunsTheLatchedCommand s _ hw he hb hh hl).trans
    (exec_setField_zero (s := takeInput s) hb ((latchedCommand_takeInput s).trans hl) hs hdata)

/-- The registers of a PASSIVE chip after the field write: the field's holds its byte, and the Second register, where it
is another, the flag as `flagDraw` left it (R33). -/
theorem readByte_fieldWrite {s : State} {f : TimeField} (hw : s.params.wf = true) (henv : s.params.env = .passive)
    (data : Byte) :
    Memory.readByte (busWrite (s.params.table.row f).addr data s).chip (s.params.table.row f).addr = data ∧
      (f ≠ .second → Memory.readByte (busWrite (s.params.table.row f).addr data s).chip (secondAddr s.params) =
        if s.draw.flagDraw = true then setIntegrity s.params (Memory.readByte s.chip (secondAddr s.params))
        else Memory.readByte s.chip (secondAddr s.params)) := by
  refine ⟨?_, fun hf => ?_⟩
  · rw [readByte_busWrite_passive henv, if_pos rfl]
  · have haddr : secondAddr s.params ≠ (s.params.table.row f).addr := fun ha => hf (eq_second_of_addr hw ha.symm)
    rw [readByte_busWrite_passive henv, if_neg haddr]
    simp only [true_and]

/-- Settles O50: the field write completes, and the reset after it lands nothing and spares the chip. -/
theorem abortedSetFieldLeavesTheFieldWritten : Obligations.AbortedSetFieldLeavesTheFieldWritten := by
  intro f v s d e rest hinv henv hb hh hs hl hi
  obtain ⟨hv, -⟩ := Instr.wf_setField.mp (wf_of_latchedCommand hl)
  obtain ⟨data, henc, hdata, -⟩ := writeData_spec hinv.table f hv
  have hadvance : nextInput s = ⟨.advance, d⟩ := nextInput_cons hi
  have hwrite : step s = .next (advanceStep (busWrite (s.params.table.row f).addr data (takeInput s))) :=
    step_writes_field hinv.table (congrArg Input.event hadvance) hb hh hl hs hdata
  have hnext : nextInput (advanceStep (busWrite (s.params.table.row f).addr data (takeInput s))) =
      ⟨.reset false, e⟩ := nextInput_cons (rest := rest) (by simp [hi])
  have hreset := step_resets (by exact hinv.table) (congrArg Input.event hnext)
  obtain ⟨hfield, hsecond⟩ := readByte_fieldWrite (s := takeInput s) (f := f) hinv.table henv data
  rw [takeInput_draw, hadvance] at hsecond
  exact ⟨_, data, (run_succ_of_next hwrite).trans (run_succ_of_next hreset), henc, hfield, hsecond, rfl, rfl, rfl⟩

/-! ### The state after reset (R230) -/

/-- Settles O39: an IDLE state at rest, with the default parameters and no register listed. -/
theorem resetMeetsTheInvariant : Obligations.ResetMeetsTheInvariant :=
  invariant_of_idle rfl (by decide : defaultParams.wf = true) (by decide : Memory.wf []) rfl rfl rfl Nat.le.refl
    Nat.le.refl

end Sys2Proof.Machine
end
